-- ==== Sys2Proof/Word.lean ====
section
/-! DEFINITION. The word types of the core (R7: XLEN = 32, NREGS = 32, ILEN = 32; R12, R15). -/

namespace Sys2Proof

/-- A register value, an address, an instruction word: 32 bits (R12, R15). -/
abbrev Word := BitVec 32

/-- The unit the memory array is made of (R43). -/
abbrev Byte := BitVec 8

/-- A register field: every 5-bit value names a register (R15, R83). -/
abbrev RegIdx := BitVec 5

end Sys2Proof
end

