-- ==== Sys2Proof/Machine/Flags.lean ====
section
/-! DEFINITION. The core has no flags and no condition codes (R34). What stands in their place is computed in the same
step from two registers: the branch comparator (R118) and the 0 or 1 of the set-less-than operations (R136). -/

namespace Sys2Proof.Machine

/-- The conditions of the branch comparator (R118). -/
inductive Cond where
  | eq
  | ne
  | lt
  | ge
  | ltu
  | geu
deriving DecidableEq, Repr

/-- `signed(a) < signed(b)` (R12). -/
def signedLt (a b : Word) : Bool := decide (a.toInt < b.toInt)

/-- `unsigned(a) < unsigned(b)` (R12). -/
def unsignedLt (a b : Word) : Bool := decide (a.toNat < b.toNat)

/-- `taken` of R118. -/
def Cond.holds (c : Cond) (a b : Word) : Bool :=
  match c with
  | .eq => a == b
  | .ne => a != b
  | .lt => signedLt a b
  | .ge => !signedLt a b
  | .ltu => unsignedLt a b
  | .geu => !unsignedLt a b

/-- A boolean condition written into a register: 1 for true, 0 for false (R15). -/
def boolWord (b : Bool) : Word := if b then 1#32 else 0#32

end Sys2Proof.Machine
end

