-- ==== Sys2Proof/Syntax.lean ====
section
/-! DEFINITION. The 47 instructions of spec/opcode_table.json, and the five fault kinds a step can name (R171). -/

namespace Sys2Proof

/-- The kinds of fault (R171). The last three are also what the decoder answers when a word is no instruction. -/
inductive FaultKind where
  /-- A fetch, load or store whose byte span is not inside [BASE, BASE+SIZE) (R50). -/
  | outOfBounds
  /-- A 4-byte access in bounds at an address that is no multiple of 4 (R53). -/
  | unaligned
  /-- Bits [6:0] are none of the 11 major opcodes (R85). -/
  | unknownOpcode
  /-- The opcode is known and funct3 names no instruction (R86). -/
  | unknownFunct3
  /-- Opcode and funct3 are known and funct7, or another sub-encoding field, is invalid (R87, R88). -/
  | unknownFunct7
deriving DecidableEq, Repr

/-- One constructor per row of spec/opcode_table.json (R89, R90). Immediates stand at the width the format gives
them before extension; a branch or jump offset has its bit 0, which is not encoded and is always 0 (R72, R74). -/
inductive Instr where
  | lui (rd : RegIdx) (imm : BitVec 20)
  | auipc (rd : RegIdx) (imm : BitVec 20)
  | jal (rd : RegIdx) (offset : BitVec 21)
  | jalr (rd rs1 : RegIdx) (imm : BitVec 12)
  | beq (rs1 rs2 : RegIdx) (offset : BitVec 13)
  | bne (rs1 rs2 : RegIdx) (offset : BitVec 13)
  | blt (rs1 rs2 : RegIdx) (offset : BitVec 13)
  | bge (rs1 rs2 : RegIdx) (offset : BitVec 13)
  | bltu (rs1 rs2 : RegIdx) (offset : BitVec 13)
  | bgeu (rs1 rs2 : RegIdx) (offset : BitVec 13)
  | lb (rd rs1 : RegIdx) (imm : BitVec 12)
  | lh (rd rs1 : RegIdx) (imm : BitVec 12)
  | lw (rd rs1 : RegIdx) (imm : BitVec 12)
  | lbu (rd rs1 : RegIdx) (imm : BitVec 12)
  | lhu (rd rs1 : RegIdx) (imm : BitVec 12)
  | sb (rs1 rs2 : RegIdx) (imm : BitVec 12)
  | sh (rs1 rs2 : RegIdx) (imm : BitVec 12)
  | sw (rs1 rs2 : RegIdx) (imm : BitVec 12)
  | addi (rd rs1 : RegIdx) (imm : BitVec 12)
  | slti (rd rs1 : RegIdx) (imm : BitVec 12)
  | sltiu (rd rs1 : RegIdx) (imm : BitVec 12)
  | xori (rd rs1 : RegIdx) (imm : BitVec 12)
  | ori (rd rs1 : RegIdx) (imm : BitVec 12)
  | andi (rd rs1 : RegIdx) (imm : BitVec 12)
  | slli (rd rs1 : RegIdx) (shamt : BitVec 5)
  | srli (rd rs1 : RegIdx) (shamt : BitVec 5)
  | srai (rd rs1 : RegIdx) (shamt : BitVec 5)
  | add (rd rs1 rs2 : RegIdx)
  | sub (rd rs1 rs2 : RegIdx)
  | sll (rd rs1 rs2 : RegIdx)
  | slt (rd rs1 rs2 : RegIdx)
  | sltu (rd rs1 rs2 : RegIdx)
  | xor (rd rs1 rs2 : RegIdx)
  | srl (rd rs1 rs2 : RegIdx)
  | sra (rd rs1 rs2 : RegIdx)
  | or (rd rs1 rs2 : RegIdx)
  | and (rd rs1 rs2 : RegIdx)
  | fence (fm pred succ : BitVec 4) (rs1 rd : RegIdx)
  | fenceI (imm : BitVec 12) (rs1 rd : RegIdx)
  | ecall
  | ebreak
  | csrrw (rd rs1 : RegIdx) (csr : BitVec 12)
  | csrrs (rd rs1 : RegIdx) (csr : BitVec 12)
  | csrrc (rd rs1 : RegIdx) (csr : BitVec 12)
  | csrrwi (rd : RegIdx) (uimm : BitVec 5) (csr : BitVec 12)
  | csrrsi (rd : RegIdx) (uimm : BitVec 5) (csr : BitVec 12)
  | csrrci (rd : RegIdx) (uimm : BitVec 5) (csr : BitVec 12)
deriving DecidableEq, Repr

end Sys2Proof
end

