-- ==== Sys2Proof/Decode.lean ====
section
/-! DEFINITION. The instruction decoder (IDU, R67 to R92), total on 32-bit words, and the encoder written from the same
format tables. The opcode, funct3 and funct7 values are the spec's own, which it marks as general knowledge (R3). -/

namespace Sys2Proof

/-! ## Fields (R68, R83) -/

def opcodeOf (w : Word) : BitVec 7 := w.extractLsb' 0 7
def rdOf (w : Word) : RegIdx := w.extractLsb' 7 5
def funct3Of (w : Word) : BitVec 3 := w.extractLsb' 12 3
def rs1Of (w : Word) : RegIdx := w.extractLsb' 15 5
def rs2Of (w : Word) : RegIdx := w.extractLsb' 20 5
def funct7Of (w : Word) : BitVec 7 := w.extractLsb' 25 7

/-- I-type immediate, before extension (R70, R78); also the CSR address (R76). -/
def immIOf (w : Word) : BitVec 12 := w.extractLsb' 20 12

/-- S-type immediate, before extension (R71, R79). -/
def immSOf (w : Word) : BitVec 12 := w.extractLsb' 25 7 ++ w.extractLsb' 7 5

/-- B-type offset, before extension (R72, R80). -/
def immBOf (w : Word) : BitVec 13 :=
  w.extractLsb' 31 1 ++ w.extractLsb' 7 1 ++ w.extractLsb' 25 6 ++ w.extractLsb' 8 4 ++ 0#1

/-- U-type immediate, before the shift by 12 (R73, R81). -/
def immUOf (w : Word) : BitVec 20 := w.extractLsb' 12 20

/-- J-type offset, before extension (R74, R82). -/
def immJOf (w : Word) : BitVec 21 :=
  w.extractLsb' 31 1 ++ w.extractLsb' 12 8 ++ w.extractLsb' 20 1 ++ w.extractLsb' 21 10 ++ 0#1

/-! ## The decoder (R85 to R89) -/

/-- BRANCH by funct3 (R86, R118). -/
def decodeBranch (w : Word) : Except FaultKind Instr :=
  match funct3Of w with
  | 0b000#3 => .ok (.beq (rs1Of w) (rs2Of w) (immBOf w))
  | 0b001#3 => .ok (.bne (rs1Of w) (rs2Of w) (immBOf w))
  | 0b100#3 => .ok (.blt (rs1Of w) (rs2Of w) (immBOf w))
  | 0b101#3 => .ok (.bge (rs1Of w) (rs2Of w) (immBOf w))
  | 0b110#3 => .ok (.bltu (rs1Of w) (rs2Of w) (immBOf w))
  | 0b111#3 => .ok (.bgeu (rs1Of w) (rs2Of w) (immBOf w))
  | _ => .error .unknownFunct3

/-- LOAD by funct3 (R86). -/
def decodeLoad (w : Word) : Except FaultKind Instr :=
  match funct3Of w with
  | 0b000#3 => .ok (.lb (rdOf w) (rs1Of w) (immIOf w))
  | 0b001#3 => .ok (.lh (rdOf w) (rs1Of w) (immIOf w))
  | 0b010#3 => .ok (.lw (rdOf w) (rs1Of w) (immIOf w))
  | 0b100#3 => .ok (.lbu (rdOf w) (rs1Of w) (immIOf w))
  | 0b101#3 => .ok (.lhu (rdOf w) (rs1Of w) (immIOf w))
  | _ => .error .unknownFunct3

/-- STORE by funct3 (R86). -/
def decodeStore (w : Word) : Except FaultKind Instr :=
  match funct3Of w with
  | 0b000#3 => .ok (.sb (rs1Of w) (rs2Of w) (immSOf w))
  | 0b001#3 => .ok (.sh (rs1Of w) (rs2Of w) (immSOf w))
  | 0b010#3 => .ok (.sw (rs1Of w) (rs2Of w) (immSOf w))
  | _ => .error .unknownFunct3

/-- IMM by funct3, and by bits [31:25] for the shifts (R75, R86, R87). -/
def decodeOpImm (w : Word) : Except FaultKind Instr :=
  match funct3Of w with
  | 0b000#3 => .ok (.addi (rdOf w) (rs1Of w) (immIOf w))
  | 0b001#3 =>
    match funct7Of w with
    | 0b0000000#7 => .ok (.slli (rdOf w) (rs1Of w) (rs2Of w))
    | _ => .error .unknownFunct7
  | 0b010#3 => .ok (.slti (rdOf w) (rs1Of w) (immIOf w))
  | 0b011#3 => .ok (.sltiu (rdOf w) (rs1Of w) (immIOf w))
  | 0b100#3 => .ok (.xori (rdOf w) (rs1Of w) (immIOf w))
  | 0b101#3 =>
    match funct7Of w with
    | 0b0000000#7 => .ok (.srli (rdOf w) (rs1Of w) (rs2Of w))
    | 0b0100000#7 => .ok (.srai (rdOf w) (rs1Of w) (rs2Of w))
    | _ => .error .unknownFunct7
  | 0b110#3 => .ok (.ori (rdOf w) (rs1Of w) (immIOf w))
  | _ => .ok (.andi (rdOf w) (rs1Of w) (immIOf w))

/-- OP by funct7 and funct3 (R86, R87). -/
def decodeOp (w : Word) : Except FaultKind Instr :=
  match funct7Of w, funct3Of w with
  | 0b0000000#7, 0b000#3 => .ok (.add (rdOf w) (rs1Of w) (rs2Of w))
  | 0b0100000#7, 0b000#3 => .ok (.sub (rdOf w) (rs1Of w) (rs2Of w))
  | 0b0000000#7, 0b001#3 => .ok (.sll (rdOf w) (rs1Of w) (rs2Of w))
  | 0b0000000#7, 0b010#3 => .ok (.slt (rdOf w) (rs1Of w) (rs2Of w))
  | 0b0000000#7, 0b011#3 => .ok (.sltu (rdOf w) (rs1Of w) (rs2Of w))
  | 0b0000000#7, 0b100#3 => .ok (.xor (rdOf w) (rs1Of w) (rs2Of w))
  | 0b0000000#7, 0b101#3 => .ok (.srl (rdOf w) (rs1Of w) (rs2Of w))
  | 0b0100000#7, 0b101#3 => .ok (.sra (rdOf w) (rs1Of w) (rs2Of w))
  | 0b0000000#7, 0b110#3 => .ok (.or (rdOf w) (rs1Of w) (rs2Of w))
  | 0b0000000#7, 0b111#3 => .ok (.and (rdOf w) (rs1Of w) (rs2Of w))
  | _, _ => .error .unknownFunct7

/-- MISC-FENCE by funct3 (R77, R86). -/
def decodeFence (w : Word) : Except FaultKind Instr :=
  match funct3Of w with
  | 0b000#3 =>
    .ok (.fence (w.extractLsb' 28 4) (w.extractLsb' 24 4) (w.extractLsb' 20 4) (rs1Of w) (rdOf w))
  | 0b001#3 => .ok (.fenceI (immIOf w) (rs1Of w) (rdOf w))
  | _ => .error .unknownFunct3

/-- SYSTEM by funct3; funct3 000 is ECALL and EBREAK by their exact words only (R86, R88, R162, R170). -/
def decodeSystem (w : Word) : Except FaultKind Instr :=
  match funct3Of w with
  | 0b000#3 =>
    if w = 0x00000073#32 then .ok .ecall
    else if w = 0x00100073#32 then .ok .ebreak
    else .error .unknownFunct7
  | 0b001#3 => .ok (.csrrw (rdOf w) (rs1Of w) (immIOf w))
  | 0b010#3 => .ok (.csrrs (rdOf w) (rs1Of w) (immIOf w))
  | 0b011#3 => .ok (.csrrc (rdOf w) (rs1Of w) (immIOf w))
  | 0b101#3 => .ok (.csrrwi (rdOf w) (rs1Of w) (immIOf w))
  | 0b110#3 => .ok (.csrrsi (rdOf w) (rs1Of w) (immIOf w))
  | 0b111#3 => .ok (.csrrci (rdOf w) (rs1Of w) (immIOf w))
  | _ => .error .unknownFunct3

/-- `decode(w)` of R89: one instruction, or the fault kind of R91. -/
def decode (w : Word) : Except FaultKind Instr :=
  match opcodeOf w with
  | 0x37#7 => .ok (.lui (rdOf w) (immUOf w))
  | 0x17#7 => .ok (.auipc (rdOf w) (immUOf w))
  | 0x6F#7 => .ok (.jal (rdOf w) (immJOf w))
  | 0x67#7 =>
    match funct3Of w with
    | 0b000#3 => .ok (.jalr (rdOf w) (rs1Of w) (immIOf w))
    | _ => .error .unknownFunct3
  | 0x63#7 => decodeBranch w
  | 0x03#7 => decodeLoad w
  | 0x23#7 => decodeStore w
  | 0x13#7 => decodeOpImm w
  | 0x33#7 => decodeOp w
  | 0x0F#7 => decodeFence w
  | 0x73#7 => decodeSystem w
  | _ => .error .unknownOpcode

/-! ## The encoder -/

/-- R-type (R69). -/
def rType (funct7 : BitVec 7) (rs2 rs1 : RegIdx) (funct3 : BitVec 3) (rd : RegIdx) (opcode : BitVec 7) : Word :=
  funct7 ++ rs2 ++ rs1 ++ funct3 ++ rd ++ opcode

/-- I-type (R70). The CSR form (R76) is the same with the CSR address as immediate. -/
def iType (imm : BitVec 12) (rs1 : RegIdx) (funct3 : BitVec 3) (rd : RegIdx) (opcode : BitVec 7) : Word :=
  imm ++ rs1 ++ funct3 ++ rd ++ opcode

/-- S-type (R71). -/
def sType (imm : BitVec 12) (rs2 rs1 : RegIdx) (funct3 : BitVec 3) (opcode : BitVec 7) : Word :=
  imm.extractLsb' 5 7 ++ rs2 ++ rs1 ++ funct3 ++ imm.extractLsb' 0 5 ++ opcode

/-- B-type (R72). Bit 0 of the offset has no place in the word. -/
def bType (offset : BitVec 13) (rs2 rs1 : RegIdx) (funct3 : BitVec 3) (opcode : BitVec 7) : Word :=
  offset.extractLsb' 12 1 ++ offset.extractLsb' 5 6 ++ rs2 ++ rs1 ++ funct3 ++
    offset.extractLsb' 1 4 ++ offset.extractLsb' 11 1 ++ opcode

/-- U-type (R73). -/
def uType (imm : BitVec 20) (rd : RegIdx) (opcode : BitVec 7) : Word :=
  imm ++ rd ++ opcode

/-- J-type (R74). Bit 0 of the offset has no place in the word. -/
def jType (offset : BitVec 21) (rd : RegIdx) (opcode : BitVec 7) : Word :=
  offset.extractLsb' 20 1 ++ offset.extractLsb' 1 10 ++ offset.extractLsb' 11 1 ++ offset.extractLsb' 12 8 ++
    rd ++ opcode

/-- FENCE form (R77). -/
def fenceType (fm pred succ : BitVec 4) (rs1 : RegIdx) (funct3 : BitVec 3) (rd : RegIdx) (opcode : BitVec 7) : Word :=
  fm ++ pred ++ succ ++ rs1 ++ funct3 ++ rd ++ opcode

/-- The word of a well-formed instruction (R69 to R77, R85 to R88). -/
def encode : Instr → Word
  | .lui rd imm => uType imm rd 0x37#7
  | .auipc rd imm => uType imm rd 0x17#7
  | .jal rd offset => jType offset rd 0x6F#7
  | .jalr rd rs1 imm => iType imm rs1 0b000#3 rd 0x67#7
  | .beq rs1 rs2 offset => bType offset rs2 rs1 0b000#3 0x63#7
  | .bne rs1 rs2 offset => bType offset rs2 rs1 0b001#3 0x63#7
  | .blt rs1 rs2 offset => bType offset rs2 rs1 0b100#3 0x63#7
  | .bge rs1 rs2 offset => bType offset rs2 rs1 0b101#3 0x63#7
  | .bltu rs1 rs2 offset => bType offset rs2 rs1 0b110#3 0x63#7
  | .bgeu rs1 rs2 offset => bType offset rs2 rs1 0b111#3 0x63#7
  | .lb rd rs1 imm => iType imm rs1 0b000#3 rd 0x03#7
  | .lh rd rs1 imm => iType imm rs1 0b001#3 rd 0x03#7
  | .lw rd rs1 imm => iType imm rs1 0b010#3 rd 0x03#7
  | .lbu rd rs1 imm => iType imm rs1 0b100#3 rd 0x03#7
  | .lhu rd rs1 imm => iType imm rs1 0b101#3 rd 0x03#7
  | .sb rs1 rs2 imm => sType imm rs2 rs1 0b000#3 0x23#7
  | .sh rs1 rs2 imm => sType imm rs2 rs1 0b001#3 0x23#7
  | .sw rs1 rs2 imm => sType imm rs2 rs1 0b010#3 0x23#7
  | .addi rd rs1 imm => iType imm rs1 0b000#3 rd 0x13#7
  | .slti rd rs1 imm => iType imm rs1 0b010#3 rd 0x13#7
  | .sltiu rd rs1 imm => iType imm rs1 0b011#3 rd 0x13#7
  | .xori rd rs1 imm => iType imm rs1 0b100#3 rd 0x13#7
  | .ori rd rs1 imm => iType imm rs1 0b110#3 rd 0x13#7
  | .andi rd rs1 imm => iType imm rs1 0b111#3 rd 0x13#7
  | .slli rd rs1 shamt => rType 0b0000000#7 shamt rs1 0b001#3 rd 0x13#7
  | .srli rd rs1 shamt => rType 0b0000000#7 shamt rs1 0b101#3 rd 0x13#7
  | .srai rd rs1 shamt => rType 0b0100000#7 shamt rs1 0b101#3 rd 0x13#7
  | .add rd rs1 rs2 => rType 0b0000000#7 rs2 rs1 0b000#3 rd 0x33#7
  | .sub rd rs1 rs2 => rType 0b0100000#7 rs2 rs1 0b000#3 rd 0x33#7
  | .sll rd rs1 rs2 => rType 0b0000000#7 rs2 rs1 0b001#3 rd 0x33#7
  | .slt rd rs1 rs2 => rType 0b0000000#7 rs2 rs1 0b010#3 rd 0x33#7
  | .sltu rd rs1 rs2 => rType 0b0000000#7 rs2 rs1 0b011#3 rd 0x33#7
  | .xor rd rs1 rs2 => rType 0b0000000#7 rs2 rs1 0b100#3 rd 0x33#7
  | .srl rd rs1 rs2 => rType 0b0000000#7 rs2 rs1 0b101#3 rd 0x33#7
  | .sra rd rs1 rs2 => rType 0b0100000#7 rs2 rs1 0b101#3 rd 0x33#7
  | .or rd rs1 rs2 => rType 0b0000000#7 rs2 rs1 0b110#3 rd 0x33#7
  | .and rd rs1 rs2 => rType 0b0000000#7 rs2 rs1 0b111#3 rd 0x33#7
  | .fence fm pred succ rs1 rd => fenceType fm pred succ rs1 0b000#3 rd 0x0F#7
  | .fenceI imm rs1 rd => iType imm rs1 0b001#3 rd 0x0F#7
  | .ecall => 0x00000073#32
  | .ebreak => 0x00100073#32
  | .csrrw rd rs1 csr => iType csr rs1 0b001#3 rd 0x73#7
  | .csrrs rd rs1 csr => iType csr rs1 0b010#3 rd 0x73#7
  | .csrrc rd rs1 csr => iType csr rs1 0b011#3 rd 0x73#7
  | .csrrwi rd uimm csr => iType csr uimm 0b101#3 rd 0x73#7
  | .csrrsi rd uimm csr => iType csr uimm 0b110#3 rd 0x73#7
  | .csrrci rd uimm csr => iType csr uimm 0b111#3 rd 0x73#7

/-! ## The opcode table's own numbering -/

/-- What the decoder reads from the table's word `w` of `nbits` bits. The core has one instruction length, 32 bits
(R67), so the word itself is what the decoder takes. -/
def decodeTableWord (nbits w : Nat) : Option Instr :=
  (decode (BitVec.ofNat 32 (w % 2 ^ nbits))).toOption

/-- A row of spec/opcode_table.json: a word `w` is of the row when `w &&& mask = bits` (the file's "match"). -/
structure OpcodeRow where
  mnemonic : String
  mask : Word
  bits : Word
deriving DecidableEq, Repr

/-- The row of spec/opcode_table.json that an instruction's constructor stands for. -/
def Instr.row : Instr → OpcodeRow
  | .lui _ _ => ⟨"LUI", 0x0000007F#32, 0x00000037#32⟩
  | .auipc _ _ => ⟨"AUIPC", 0x0000007F#32, 0x00000017#32⟩
  | .jal _ _ => ⟨"JAL", 0x0000007F#32, 0x0000006F#32⟩
  | .jalr _ _ _ => ⟨"JALR", 0x0000707F#32, 0x00000067#32⟩
  | .beq _ _ _ => ⟨"BEQ", 0x0000707F#32, 0x00000063#32⟩
  | .bne _ _ _ => ⟨"BNE", 0x0000707F#32, 0x00001063#32⟩
  | .blt _ _ _ => ⟨"BLT", 0x0000707F#32, 0x00004063#32⟩
  | .bge _ _ _ => ⟨"BGE", 0x0000707F#32, 0x00005063#32⟩
  | .bltu _ _ _ => ⟨"BLTU", 0x0000707F#32, 0x00006063#32⟩
  | .bgeu _ _ _ => ⟨"BGEU", 0x0000707F#32, 0x00007063#32⟩
  | .lb _ _ _ => ⟨"LB", 0x0000707F#32, 0x00000003#32⟩
  | .lh _ _ _ => ⟨"LH", 0x0000707F#32, 0x00001003#32⟩
  | .lw _ _ _ => ⟨"LW", 0x0000707F#32, 0x00002003#32⟩
  | .lbu _ _ _ => ⟨"LBU", 0x0000707F#32, 0x00004003#32⟩
  | .lhu _ _ _ => ⟨"LHU", 0x0000707F#32, 0x00005003#32⟩
  | .sb _ _ _ => ⟨"SB", 0x0000707F#32, 0x00000023#32⟩
  | .sh _ _ _ => ⟨"SH", 0x0000707F#32, 0x00001023#32⟩
  | .sw _ _ _ => ⟨"SW", 0x0000707F#32, 0x00002023#32⟩
  | .addi _ _ _ => ⟨"ADDI", 0x0000707F#32, 0x00000013#32⟩
  | .slti _ _ _ => ⟨"SLTI", 0x0000707F#32, 0x00002013#32⟩
  | .sltiu _ _ _ => ⟨"SLTIU", 0x0000707F#32, 0x00003013#32⟩
  | .xori _ _ _ => ⟨"XORI", 0x0000707F#32, 0x00004013#32⟩
  | .ori _ _ _ => ⟨"ORI", 0x0000707F#32, 0x00006013#32⟩
  | .andi _ _ _ => ⟨"ANDI", 0x0000707F#32, 0x00007013#32⟩
  | .slli _ _ _ => ⟨"SLLI", 0xFE00707F#32, 0x00001013#32⟩
  | .srli _ _ _ => ⟨"SRLI", 0xFE00707F#32, 0x00005013#32⟩
  | .srai _ _ _ => ⟨"SRAI", 0xFE00707F#32, 0x40005013#32⟩
  | .add _ _ _ => ⟨"ADD", 0xFE00707F#32, 0x00000033#32⟩
  | .sub _ _ _ => ⟨"SUB", 0xFE00707F#32, 0x40000033#32⟩
  | .sll _ _ _ => ⟨"SLL", 0xFE00707F#32, 0x00001033#32⟩
  | .slt _ _ _ => ⟨"SLT", 0xFE00707F#32, 0x00002033#32⟩
  | .sltu _ _ _ => ⟨"SLTU", 0xFE00707F#32, 0x00003033#32⟩
  | .xor _ _ _ => ⟨"XOR", 0xFE00707F#32, 0x00004033#32⟩
  | .srl _ _ _ => ⟨"SRL", 0xFE00707F#32, 0x00005033#32⟩
  | .sra _ _ _ => ⟨"SRA", 0xFE00707F#32, 0x40005033#32⟩
  | .or _ _ _ => ⟨"OR", 0xFE00707F#32, 0x00006033#32⟩
  | .and _ _ _ => ⟨"AND", 0xFE00707F#32, 0x00007033#32⟩
  | .fence _ _ _ _ _ => ⟨"FENCE", 0x0000707F#32, 0x0000000F#32⟩
  | .fenceI _ _ _ => ⟨"FENCE.I", 0x0000707F#32, 0x0000100F#32⟩
  | .ecall => ⟨"ECALL", 0xFFFFFFFF#32, 0x00000073#32⟩
  | .ebreak => ⟨"EBREAK", 0xFFFFFFFF#32, 0x00100073#32⟩
  | .csrrw _ _ _ => ⟨"CSRRW", 0x0000707F#32, 0x00001073#32⟩
  | .csrrs _ _ _ => ⟨"CSRRS", 0x0000707F#32, 0x00002073#32⟩
  | .csrrc _ _ _ => ⟨"CSRRC", 0x0000707F#32, 0x00003073#32⟩
  | .csrrwi _ _ _ => ⟨"CSRRWI", 0x0000707F#32, 0x00005073#32⟩
  | .csrrsi _ _ _ => ⟨"CSRRSI", 0x0000707F#32, 0x00006073#32⟩
  | .csrrci _ _ _ => ⟨"CSRRCI", 0x0000707F#32, 0x00007073#32⟩

/-- spec/opcode_table.json, row by row. -/
def opcodeTable : List OpcodeRow :=
  ([Instr.lui 0 0, Instr.auipc 0 0, Instr.jal 0 0, Instr.jalr 0 0 0, Instr.beq 0 0 0, Instr.bne 0 0 0] ++
   [Instr.blt 0 0 0, Instr.bge 0 0 0, Instr.bltu 0 0 0, Instr.bgeu 0 0 0, Instr.lb 0 0 0, Instr.lh 0 0 0] ++
   [Instr.lw 0 0 0, Instr.lbu 0 0 0, Instr.lhu 0 0 0, Instr.sb 0 0 0, Instr.sh 0 0 0, Instr.sw 0 0 0] ++
   [Instr.addi 0 0 0, Instr.slti 0 0 0, Instr.sltiu 0 0 0, Instr.xori 0 0 0, Instr.ori 0 0 0, Instr.andi 0 0 0] ++
   [Instr.slli 0 0 0, Instr.srli 0 0 0, Instr.srai 0 0 0, Instr.add 0 0 0, Instr.sub 0 0 0, Instr.sll 0 0 0] ++
   [Instr.slt 0 0 0, Instr.sltu 0 0 0, Instr.xor 0 0 0, Instr.srl 0 0 0, Instr.sra 0 0 0, Instr.or 0 0 0] ++
   [Instr.and 0 0 0, Instr.fence 0 0 0 0 0, Instr.fenceI 0 0 0, Instr.ecall, Instr.ebreak, Instr.csrrw 0 0 0] ++
   [Instr.csrrs 0 0 0, Instr.csrrc 0 0 0, Instr.csrrwi 0 0 0, Instr.csrrsi 0 0 0, Instr.csrrci 0 0 0]).map Instr.row

end Sys2Proof
end

