-- ==== Sys2Proof/Config.lean ====
section
/-! DEFINITION. What one instance of the core fixes for its whole life: the parameters of R7. -/

namespace Sys2Proof

/-- The configuration parameters of R7. Only these vary (R8). An instance carries its own configuration
inside its State and no step changes it, so that a claim about every state is a claim about every
configuration (assumption 3). -/
structure Config where
  /-- BASE, the first mapped address (R42). -/
  base : Nat
  /-- SIZE, the number of mapped bytes (R43). -/
  size : Nat
  /-- SENTINEL_WORD, the halt-success word (R98). OPEN in the spec (D4). -/
  sentinel : Word
  /-- JALR_CLEARS_BIT0: does JALR clear bit 0 of its target (R104, R117, D5)? -/
  jalrClearsBit0 : Bool
deriving DecidableEq, Repr

/-- The constraints on a configuration: SIZE > 0 and BASE + SIZE <= 2^32 (R7), and the sentinel is a SYSTEM
word, bits [6:0] = `1110011` (R98). -/
abbrev Config.wf (c : Config) : Prop :=
  0 < c.size ∧ c.base + c.size ≤ 2 ^ 32 ∧ c.sentinel.extractLsb' 0 7 = 0b1110011#7

end Sys2Proof
end

