-- ==== Sys2Proof/Machine/Params.lean ====
section
/-! DEFINITION. The values that State.reset's own instance is created with. Every statement is about every
configuration; these are only the reset state's. -/

namespace Sys2Proof.Machine

/-- SENTINEL_WORD of the reset state. OPEN in the spec (R7, D4, N16): DESIGN CHOICE, unsafe (assumption 2). It is a
SYSTEM word, as R98 asks, and it is no instruction of R89 (funct3 100), so that it hides none. -/
def defaultSentinel : Word := 0xFFFFCFF3#32

/-- The defaults of R7, with `defaultSentinel` for the word that has none. -/
def defaultConfig : Config where
  base := 0x80000000
  size := 0x10000
  sentinel := defaultSentinel
  jalrClearsBit0 := false

/-- The entry_pc of the reset state (R190 makes it an argument): BASE, as in the spec's own vectors V1 and P1.
DESIGN CHOICE, unsafe (assumption 5). -/
def defaultEntry : Word := 0x80000000#32

/-- x1..x31 of the reset state. The spec leaves them unspecified (R39, D19): DESIGN CHOICE, unsafe (assumption 4). -/
def defaultRegs : Vector Word 32 := Vector.replicate 32 0#32

end Sys2Proof.Machine
end

