-- ==== Sys2Proof/Machine/State.lean ====
section
/-! DEFINITION. The state of one core instance (10_state.md), as plain data, and the reasons an operation can stop. -/

namespace Sys2Proof.Machine

/-- The memory array (R43) as (address, byte) pairs, absolute addresses. Canonical form: `Memory.wf`. An address
that is not listed reads as 0, what instance creation leaves in every byte (R48, R191). -/
abbrev Memory := List Host.Cell

/-- The canonical form: addresses strictly rise, and no entry holds what an unlisted address reads as. -/
abbrev Memory.wf (m : Memory) : Prop :=
  m.Pairwise (fun c d => c.1 < d.1) ∧ ∀ c ∈ m, c.2 ≠ 0#8

/-- Why the core halted (R37, R99, R173). -/
inductive HaltReason where
  /-- A step fetched SENTINEL_WORD (R99). -/
  | success
  /-- A step faulted: the kind, the pc of that step, and the fetched word, or none when the fetch faulted (R173). -/
  | fault (kind : FaultKind) (fpc : Word) (word : Option Word)
deriving DecidableEq, Repr

/-- The halt status of R37. -/
inductive Status where
  | running
  | halted (reason : HaltReason)
deriving DecidableEq, Repr

/-- Where an instance is in the order of R192: the model's own field (assumption 6), for what R193, R195 and R196
allow before the first reset and before the first step. -/
inductive Lifecycle where
  /-- Created, no reset yet: no step (R195). -/
  | created
  /-- Reset, no step yet: the host may still load memory (R196). -/
  | ready
  /-- A step has been made: no host write to memory any more (R193). -/
  | started
deriving DecidableEq, Repr

/-- The architectural state (R25 to R41) of one instance and its configuration. -/
structure State where
  /-- BASE, SIZE, SENTINEL_WORD, JALR_CLEARS_BIT0 (R7), fixed for the instance's life. -/
  config : Config
  /-- x0..x31 (R25). Entry 0 holds 0 and is neither read nor written: see `State.reg` and `State.setReg` (R26). -/
  regs : Vector Word 32
  /-- The program counter, entry 32 of the register file (R25, R30). -/
  pc : Word
  /-- The memory array (R43). -/
  mem : Memory
  /-- The halt status (R37). -/
  status : Status
  /-- The model's own field (assumption 6). -/
  lifecycle : Lifecycle
deriving DecidableEq, Repr

/-- Why an operation stops with a fault of the host interface. A fault of the core itself is no such stop: its effect is
given by R175 (status becomes HALTED, nothing else changes), so the step takes it and goes to that next state
(assumption 1). -/
inductive Fault where
  /-- Raised by `loadSegment` when the segment is not inside [BASE, BASE+SIZE): "fail OutOfBounds", no byte is copied
  (R49, R196). Safe: the spec's own failure, and it changes nothing. -/
  | segmentOutOfBounds
deriving DecidableEq, Repr

/-- Why the model refuses an operation. -/
inductive Refusal where
  /-- Raised by an arm of `exec` whose instruction has no meaning yet. Safe: nothing can be proved of it. -/
  | notModelled (mnemonic : String)
  /-- Raised by `step` and `run` before the first reset: "A model refuses a step, or a run, of an instance that has
  not been reset" (R195). Safe: the spec asks for it. -/
  | notReset
  /-- Raised by `loadSegment` once a step has been made: "A model admits no host write to memory or to registers
  during a run" (R193). Safe: the spec asks for it. -/
  | hostWriteAfterStep
  /-- Raised by `create` for a configuration outside the constraints of R7: "A configuration that breaks the constraint
  is refused" (D9). Safe: the spec asks for it. -/
  | badConfig
deriving DecidableEq, Repr

/-- What an operation on the machine answers. -/
abbrev Result := Host.Outcome State Fault Refusal

/-- The machine right after reset (R39): a freshly created instance of the default configuration, its memory all 0
(R48), after `reset(entry_pc)`. The entry_pc, the sentinel and x1..x31 are the model's (assumptions 2, 4, 5). -/
def State.reset : State where
  config := defaultConfig
  regs := defaultRegs
  pc := defaultEntry
  mem := []
  status := .running
  lifecycle := .ready

end Sys2Proof.Machine
end

