-- ==== Sys2Proof/Machine/Ops.lean ====
section
/-! DEFINITION. The named operations over registers, memory and status that every meaning is built from. -/

namespace Sys2Proof.Machine

/-! ## The register file (R25 to R30) -/

/-- `get(i)` of R26: x0 reads 0. -/
def State.reg (s : State) (i : RegIdx) : Word :=
  if i = 0#5 then 0#32 else s.regs[i.toNat]'i.isLt

/-- `set(i, v)` of R26: a write of x0 is discarded. -/
def State.setReg (s : State) (i : RegIdx) (v : Word) : State :=
  if i = 0#5 then s else { s with regs := s.regs.set i.toNat v i.isLt }

/-- `pc <- target` (R30). -/
def State.setPc (s : State) (target : Word) : State := { s with pc := target }

/-! ## The memory array (R43 to R46) -/

/-- The byte at an address: what the list says, and 0 where it says nothing (R48). -/
def Memory.read : Memory → Nat → Byte
  | [], _ => 0#8
  | c :: cs, a => if a = c.1 then c.2 else Memory.read cs a

/-- One byte written, keeping the canonical form: writing 0 takes the entry out. -/
def Memory.write : Memory → Nat → Byte → Memory
  | [], a, b => if b = 0#8 then [] else [(a, b)]
  | c :: cs, a, b =>
    if a < c.1 then (if b = 0#8 then c :: cs else (a, b) :: c :: cs)
    else if a = c.1 then (if b = 0#8 then cs else (a, b) :: cs)
    else c :: Memory.write cs a b

/-- `n` bytes from address `a` as a little-endian number (R44, R51). -/
def Memory.readLE (m : Memory) (a : Nat) : Nat → Word
  | 0 => 0#32
  | n + 1 => (m.read a).setWidth 32 ||| (Memory.readLE m (a + 1) n <<< 8)

/-- The low `8n` bits of `v` as `n` little-endian bytes at `a` (R44, R52). -/
def Memory.writeLE (m : Memory) (a : Nat) : Nat → Word → Memory
  | 0, _ => m
  | n + 1, v => Memory.writeLE (m.write a (v.setWidth 8)) (a + 1) n (v >>> 8)

/-- Bytes copied to consecutive addresses, in order (R49). -/
def Memory.writeBytes : Memory → Nat → List Byte → Memory
  | m, _, [] => m
  | m, a, b :: bs => Memory.writeBytes (m.write a b) (a + 1) bs

/-! ## Checked accesses (R50 to R56) -/

/-- The access widths of R56. -/
inductive Width where
  | byte
  | half
  | word
deriving DecidableEq, Repr

/-- The number of bytes of an access (R56). -/
def Width.bytes : Width → Nat
  | .byte => 1
  | .half => 2
  | .word => 4

/-- `InBounds(a, n)` of R50, in unbounded integers. -/
def inBounds (c : Config) (a : Word) (n : Nat) : Bool :=
  decide (c.base ≤ a.toNat) && decide (a.toNat + n ≤ c.base + c.size)

/-- Must and does a 4-byte access sit at a multiple of 4? Narrower accesses have no alignment requirement (R53, R54). -/
def alignedFor (a : Word) (w : Width) : Bool :=
  match w with
  | .byte => true
  | .half => true
  | .word => a.extractLsb' 0 2 == 0#2

/-- The fault an access raises, if it raises one: bounds before alignment (R51, R52, R174). -/
def accessFault (c : Config) (a : Word) (w : Width) : Option FaultKind :=
  if inBounds c a w.bytes then
    if alignedFor a w then none else some .unaligned
  else some .outOfBounds

/-- `MemRead(a, n)` of R51; the 8n bits stand in the low end of the word. -/
def State.memRead (s : State) (a : Word) (w : Width) : Except FaultKind Word :=
  match accessFault s.config a w with
  | some k => .error k
  | none => .ok (s.mem.readLE a.toNat w.bytes)

/-- `MemWrite(a, n, v)` of R52. A write that raises changes no byte (R59). -/
def State.memWrite (s : State) (a : Word) (w : Width) (v : Word) : Except FaultKind State :=
  match accessFault s.config a w with
  | some k => .error k
  | none => .ok { s with mem := s.mem.writeLE a.toNat w.bytes v }

/-! ## Halting (R37, R99, R175) -/

/-- The core halts: only the status changes (R99, R175). -/
def State.halt (s : State) (r : HaltReason) : State := { s with status := .halted r }

/-- Taking a fault, the one way every faulting step takes (R175): the record is the kind, the pc of the step, and the
fetched word, or none when the fetch faulted (R173). There is no trap, so nothing returns from it but a reset (R176,
R179, R194). -/
def State.takeFault (s : State) (k : FaultKind) (word : Option Word) : State :=
  s.halt (.fault k s.pc word)

/-- A step has begun: from here on the host writes no memory (R193). The model's own field (assumption 6). -/
def State.start (s : State) : State := { s with lifecycle := .started }

/-! ## The step before execution (R96 to R100) -/

/-- The fetch unit (R55, R97). -/
def State.fetch (s : State) : Except FaultKind Word := s.memRead s.pc .word

/-- The sentinel detector (R98). -/
def isSentinel (c : Config) (w : Word) : Bool := w == c.sentinel

/-- What fetch, sentinel detector and decoder make of a state. -/
inductive FrontEnd where
  /-- The step halts here. -/
  | halt (r : HaltReason)
  /-- The step executes this instruction. -/
  | run (i : Instr)
deriving DecidableEq, Repr

/-- Fetch, then the sentinel test, then decode, in that order (R96, R98, R174). -/
def State.frontEnd (s : State) : FrontEnd :=
  match s.fetch with
  | .error k => .halt (.fault k s.pc none)
  | .ok w =>
    if isSentinel s.config w then .halt .success
    else
      match decode w with
      | .error k => .halt (.fault k s.pc (some w))
      | .ok i => .run i

end Sys2Proof.Machine
end

