-- ==== Sys2Proof/Machine/Operands.lean ====
section
/-! DEFINITION. Every operand form of the core: extended immediates, the one addressing mode, the PC mux. -/

namespace Sys2Proof.Machine

/-! ## Extension (R13, R78 to R84) -/

/-- `sext_N(v)` of R13. -/
def sext {n : Nat} (v : BitVec n) : Word := v.signExtend 32

/-- `zext_N(v)` of R13. -/
def zext {n : Nat} (v : BitVec n) : Word := v.setWidth 32

/-- `immU` of R81: the 20 bits, then twelve zeros. -/
def immU (imm : BitVec 20) : Word := imm ++ 0#12

/-- How a load extends what it read (R56, R125). -/
inductive Ext where
  | signed
  | unsigned
deriving DecidableEq, Repr

/-- `ext(v)` of R125: from 8n bits to 32. For a word there is nothing to extend. -/
def extend (w : Width) (e : Ext) (v : Word) : Word :=
  match w, e with
  | .byte, .signed => sext (v.setWidth 8)
  | .byte, .unsigned => zext (v.setWidth 8)
  | .half, .signed => sext (v.setWidth 16)
  | .half, .unsigned => zext (v.setWidth 16)
  | .word, .signed => v
  | .word, .unsigned => v

/-! ## Addresses -/

/-- The effective address of a load or store: base register plus signed displacement, modulo 2^32 (R47). -/
def State.effAddr (s : State) (rs1 : RegIdx) (imm : BitVec 12) : Word := s.reg rs1 + sext imm

/-! ## The program-counter mux (R9, R104) -/

/-- `pc_sel` of R104. -/
inductive PcSel where
  | seq
  | branch
  | jal
  | jalr
  | hold
deriving DecidableEq, Repr

/-- The target of JALR (R104, R117): bit 0 is cleared only by the parameter. -/
def jalrTarget (c : Config) (base imm : Word) : Word :=
  if c.jalrClearsBit0 then (base + imm) &&& 0xFFFFFFFE#32 else base + imm

/-- `next_pc` of R104, from the inputs R9 gives the mux: the pc of the current instruction, `taken`, the extended
immediate and x[rs1]. It checks no alignment. -/
def pcMux (c : Config) (sel : PcSel) (pc : Word) (taken : Bool) (imm base : Word) : Word :=
  match sel with
  | .seq => pc + 4#32
  | .branch => if taken then pc + imm else pc + 4#32
  | .jal => pc + imm
  | .jalr => jalrTarget c base imm
  | .hold => pc

/-! ## Commit (R103) -/

/-- The one PC write of a completing step (R31, R103). -/
def State.goto (s : State) (sel : PcSel) (taken : Bool) (imm base : Word) : State :=
  s.setPc (pcMux s.config sel s.pc taken imm base)

/-- A step that writes no register and no memory (R101): `pc_sel` is SEQ, which uses no other input. -/
def State.advance (s : State) : State := s.goto .seq false 0#32 0#32

/-- A step that writes `rd` and goes on to the next instruction (R101, R103). -/
def State.writeBack (s : State) (rd : RegIdx) (v : Word) : State := (s.setReg rd v).advance

end Sys2Proof.Machine
end

