-- ==== Sys2Proof/Machine/Alu.lean ====
section
/-! DEFINITION. The ALU (R136) and the meanings of the register-immediate (IMM) and register-register (OP) instructions
(44_alu.md). None can fault. -/

namespace Sys2Proof.Machine

/-- `alu_op` of R136. -/
inductive AluOp where
  | add
  | sub
  | sll
  | slt
  | sltu
  | xor
  | srl
  | sra
  | or
  | and
deriving DecidableEq, Repr

/-- The shift amount: the low 5 bits of the second operand (R136). -/
def shiftAmount (b : Word) : Nat := (b.extractLsb' 0 5).toNat

/-- `alu(alu_op, a, b)` of R136. -/
def alu (op : AluOp) (a b : Word) : Word :=
  match op with
  | .add => a + b
  | .sub => a - b
  | .sll => a <<< shiftAmount b
  | .slt => boolWord (signedLt a b)
  | .sltu => boolWord (unsignedLt a b)
  | .xor => a ^^^ b
  | .srl => a >>> shiftAmount b
  | .sra => a.sshiftRight (shiftAmount b)
  | .or => a ||| b
  | .and => a &&& b

/-- An IMM instruction: operand b is given, operand a is x[rs1], both read before the write of rd (R101, R105). -/
def aluImm (op : AluOp) (rd rs1 : RegIdx) (b : Word) (s : State) : Result :=
  .next (s.writeBack rd (alu op (s.reg rs1) b))

/-- An OP instruction: operand b is x[rs2] (R101, R105). -/
def aluReg (op : AluOp) (rd rs1 rs2 : RegIdx) (s : State) : Result :=
  .next (s.writeBack rd (alu op (s.reg rs1) (s.reg rs2)))

/-! ## IMM (R137 to R145) -/

/-- ADDI (R137). -/
def execAddi (rd rs1 : RegIdx) (imm : BitVec 12) (s : State) : Result := aluImm .add rd rs1 (sext imm) s
/-- SLTI (R138). -/
def execSlti (rd rs1 : RegIdx) (imm : BitVec 12) (s : State) : Result := aluImm .slt rd rs1 (sext imm) s
/-- SLTIU: the immediate is sign-extended first, then compared unsigned (R139). -/
def execSltiu (rd rs1 : RegIdx) (imm : BitVec 12) (s : State) : Result := aluImm .sltu rd rs1 (sext imm) s
/-- XORI (R140). -/
def execXori (rd rs1 : RegIdx) (imm : BitVec 12) (s : State) : Result := aluImm .xor rd rs1 (sext imm) s
/-- ORI (R141). -/
def execOri (rd rs1 : RegIdx) (imm : BitVec 12) (s : State) : Result := aluImm .or rd rs1 (sext imm) s
/-- ANDI (R142). -/
def execAndi (rd rs1 : RegIdx) (imm : BitVec 12) (s : State) : Result := aluImm .and rd rs1 (sext imm) s
/-- SLLI (R143). -/
def execSlli (rd rs1 : RegIdx) (shamt : BitVec 5) (s : State) : Result := aluImm .sll rd rs1 (zext shamt) s
/-- SRLI (R144). -/
def execSrli (rd rs1 : RegIdx) (shamt : BitVec 5) (s : State) : Result := aluImm .srl rd rs1 (zext shamt) s
/-- SRAI (R145). -/
def execSrai (rd rs1 : RegIdx) (shamt : BitVec 5) (s : State) : Result := aluImm .sra rd rs1 (zext shamt) s

/-! ## OP (R146 to R155) -/

/-- ADD (R146). -/
def execAdd (rd rs1 rs2 : RegIdx) (s : State) : Result := aluReg .add rd rs1 rs2 s
/-- SUB (R147). -/
def execSub (rd rs1 rs2 : RegIdx) (s : State) : Result := aluReg .sub rd rs1 rs2 s
/-- SLL (R148). -/
def execSll (rd rs1 rs2 : RegIdx) (s : State) : Result := aluReg .sll rd rs1 rs2 s
/-- SLT (R149). -/
def execSlt (rd rs1 rs2 : RegIdx) (s : State) : Result := aluReg .slt rd rs1 rs2 s
/-- SLTU (R150). -/
def execSltu (rd rs1 rs2 : RegIdx) (s : State) : Result := aluReg .sltu rd rs1 rs2 s
/-- XOR (R151). -/
def execXor (rd rs1 rs2 : RegIdx) (s : State) : Result := aluReg .xor rd rs1 rs2 s
/-- SRL (R152). -/
def execSrl (rd rs1 rs2 : RegIdx) (s : State) : Result := aluReg .srl rd rs1 rs2 s
/-- SRA (R153). -/
def execSra (rd rs1 rs2 : RegIdx) (s : State) : Result := aluReg .sra rd rs1 rs2 s
/-- OR (R154). -/
def execOr (rd rs1 rs2 : RegIdx) (s : State) : Result := aluReg .or rd rs1 rs2 s
/-- AND (R155). -/
def execAnd (rd rs1 rs2 : RegIdx) (s : State) : Result := aluReg .and rd rs1 rs2 s

end Sys2Proof.Machine
end

