-- ==== Sys2Proof/Machine/Control.lean ====
section
/-! DEFINITION. Jumps and branches (42_control_transfer.md). No delay slot, no check of the target: a target that is no
multiple of 4, or outside memory, is written to the pc and the next fetch faults (R32). -/

namespace Sys2Proof.Machine

/-- JAL (R115). -/
def execJal (rd : RegIdx) (offset : BitVec 21) (s : State) : Result :=
  .next ((s.setReg rd (s.pc + 4#32)).goto .jal false (sext offset) 0#32)

/-- JALR: x[rs1] is read before the link is written (R105, R117). -/
def execJalr (rd rs1 : RegIdx) (imm : BitVec 12) (s : State) : Result :=
  .next ((s.setReg rd (s.pc + 4#32)).goto .jalr false (sext imm) (s.reg rs1))

/-- The form of every BRANCH instruction (R118). -/
def branchOn (c : Cond) (rs1 rs2 : RegIdx) (offset : BitVec 13) (s : State) : Result :=
  .next (s.goto .branch (c.holds (s.reg rs1) (s.reg rs2)) (sext offset) 0#32)

/-- BEQ (R119). -/
def execBeq (rs1 rs2 : RegIdx) (offset : BitVec 13) (s : State) : Result := branchOn .eq rs1 rs2 offset s
/-- BNE (R120). -/
def execBne (rs1 rs2 : RegIdx) (offset : BitVec 13) (s : State) : Result := branchOn .ne rs1 rs2 offset s
/-- BLT (R121). -/
def execBlt (rs1 rs2 : RegIdx) (offset : BitVec 13) (s : State) : Result := branchOn .lt rs1 rs2 offset s
/-- BGE (R122). -/
def execBge (rs1 rs2 : RegIdx) (offset : BitVec 13) (s : State) : Result := branchOn .ge rs1 rs2 offset s
/-- BLTU (R123). -/
def execBltu (rs1 rs2 : RegIdx) (offset : BitVec 13) (s : State) : Result := branchOn .ltu rs1 rs2 offset s
/-- BGEU (R124). -/
def execBgeu (rs1 rs2 : RegIdx) (offset : BitVec 13) (s : State) : Result := branchOn .geu rs1 rs2 offset s

end Sys2Proof.Machine
end

