-- ==== Sys2Proof/Machine/LoadStore.lean ====
section
/-! DEFINITION. The load-store unit (43_load_store.md). An access that faults takes the fault: the step halts with the
kind, the pc and the instruction's own word, and changes nothing else (R102, R175). -/

namespace Sys2Proof.Machine

/-- The load path of R125, for the instruction `i` whose word a fault records (assumption 8). A load of x0 still makes
its access (R135). -/
def loadInto (i : Instr) (w : Width) (e : Ext) (rd rs1 : RegIdx) (imm : BitVec 12) (s : State) : Result :=
  match s.memRead (s.effAddr rs1 imm) w with
  | .error k => .next (s.takeFault k (some (encode i)))
  | .ok v => .next (s.writeBack rd (extend w e v))

/-- The store path of R131, for the instruction `i` whose word a fault records (assumption 8). -/
def storeFrom (i : Instr) (w : Width) (rs1 rs2 : RegIdx) (imm : BitVec 12) (s : State) : Result :=
  match s.memWrite (s.effAddr rs1 imm) w (s.reg rs2) with
  | .error k => .next (s.takeFault k (some (encode i)))
  | .ok s' => .next s'.advance

/-- LB (R126). -/
def execLb (rd rs1 : RegIdx) (imm : BitVec 12) (s : State) : Result :=
  loadInto (.lb rd rs1 imm) .byte .signed rd rs1 imm s
/-- LH (R127). -/
def execLh (rd rs1 : RegIdx) (imm : BitVec 12) (s : State) : Result :=
  loadInto (.lh rd rs1 imm) .half .signed rd rs1 imm s
/-- LW (R128). -/
def execLw (rd rs1 : RegIdx) (imm : BitVec 12) (s : State) : Result :=
  loadInto (.lw rd rs1 imm) .word .signed rd rs1 imm s
/-- LBU (R129). -/
def execLbu (rd rs1 : RegIdx) (imm : BitVec 12) (s : State) : Result :=
  loadInto (.lbu rd rs1 imm) .byte .unsigned rd rs1 imm s
/-- LHU (R130). -/
def execLhu (rd rs1 : RegIdx) (imm : BitVec 12) (s : State) : Result :=
  loadInto (.lhu rd rs1 imm) .half .unsigned rd rs1 imm s

/-- SB (R132). -/
def execSb (rs1 rs2 : RegIdx) (imm : BitVec 12) (s : State) : Result :=
  storeFrom (.sb rs1 rs2 imm) .byte rs1 rs2 imm s
/-- SH (R133). -/
def execSh (rs1 rs2 : RegIdx) (imm : BitVec 12) (s : State) : Result :=
  storeFrom (.sh rs1 rs2 imm) .half rs1 rs2 imm s
/-- SW (R134). -/
def execSw (rs1 rs2 : RegIdx) (imm : BitVec 12) (s : State) : Result :=
  storeFrom (.sw rs1 rs2 imm) .word rs1 rs2 imm s

end Sys2Proof.Machine
end

