-- ==== Sys2Proof/Machine/System.lean ====
section
/-! DEFINITION. MISC-FENCE and SYSTEM (45_system_fence.md). Every one advances the pc by 4 and does nothing else: that is
the effect the spec gives it. A word equal to SENTINEL_WORD halts before it is decoded (R98). -/

namespace Sys2Proof.Machine

/-- FENCE: fm, pred, succ, rs1 and rd are ignored (R61, R158). -/
def execFence (_fm _pred _succ : BitVec 4) (_rs1 _rd : RegIdx) (s : State) : Result := .next s.advance
/-- FENCE.I: its fields are ignored, and stores are already seen by the next fetch (R62, R159). -/
def execFenceI (_imm : BitVec 12) (_rs1 _rd : RegIdx) (s : State) : Result := .next s.advance
/-- ECALL: no trap is taken, no register changes (R160). -/
def execEcall (s : State) : Result := .next s.advance
/-- EBREAK: no trap is taken, no debug mode is entered (R161). -/
def execEbreak (s : State) : Result := .next s.advance

/-- The common rule of the CSR instructions (R163): no register read or written, not even rd, for every csr. -/
def csrNoOp (s : State) : Result := .next s.advance

/-- CSRRW (R164). -/
def execCsrrw (_rd _rs1 : RegIdx) (_csr : BitVec 12) (s : State) : Result := csrNoOp s
/-- CSRRS (R165). -/
def execCsrrs (_rd _rs1 : RegIdx) (_csr : BitVec 12) (s : State) : Result := csrNoOp s
/-- CSRRC (R166). -/
def execCsrrc (_rd _rs1 : RegIdx) (_csr : BitVec 12) (s : State) : Result := csrNoOp s
/-- CSRRWI (R167). -/
def execCsrrwi (_rd : RegIdx) (_uimm : BitVec 5) (_csr : BitVec 12) (s : State) : Result := csrNoOp s
/-- CSRRSI (R168). -/
def execCsrrsi (_rd : RegIdx) (_uimm : BitVec 5) (_csr : BitVec 12) (s : State) : Result := csrNoOp s
/-- CSRRCI (R169). -/
def execCsrrci (_rd : RegIdx) (_uimm : BitVec 5) (_csr : BitVec 12) (s : State) : Result := csrNoOp s

end Sys2Proof.Machine
end

