-- ==== Sys2Proof/Machine/UpperImmediate.lean ====
section
/-! DEFINITION. LUI and AUIPC (41_upper_immediate.md). Neither can fault. -/

namespace Sys2Proof.Machine

/-- LUI (R113). -/
def execLui (rd : RegIdx) (imm : BitVec 20) (s : State) : Result := .next (s.writeBack rd (immU imm))

/-- AUIPC: the pc is this instruction's address (R114). -/
def execAuipc (rd : RegIdx) (imm : BitVec 20) (s : State) : Result := .next (s.writeBack rd (s.pc + immU imm))

end Sys2Proof.Machine
end

