-- ==== Sys2Proof/Machine/Step.lean ====
section
/-! DEFINITION. One step (R96). -/

namespace Sys2Proof.Machine

/-- `step()`: refused before the first reset (R195); no change when halted (R194); otherwise fetch, sentinel test,
decode and execute (R96). -/
def step (s : State) : Host.Outcome State Fault Refusal :=
  match s.lifecycle, s.status with
  | .created, _ => .refused .notReset
  | _, .halted _ => .next s
  | _, .running =>
    match s.frontEnd with
    | .halt r => .next (s.start.halt r)
    | .run i => exec i s.start

/-- `s` with the word of `w` (its low `nbits` bits) at the pc, where the next step fetches (R97). It stands for the
host's load of a program before the first step (R192, assumption 5). Nothing else changes. -/
def State.withFetchWord (s : State) (nbits w : Nat) : State :=
  { s with mem := s.mem.writeLE s.pc.toNat 4 (BitVec.ofNat 32 (w % 2 ^ nbits)) }

end Sys2Proof.Machine
end

