-- ==== Sys2Proof/Machine/Datapath.lean ====
section
/-! DEFINITION. The core as one datapath: the decoded record of R90, the control signals of the dispatcher's table (R101),
and one step of the units they drive (R96, R102, R103). It is a second description of what `exec` does instruction by
instruction; that the two agree is a statement of the package. -/

namespace Sys2Proof.Machine

/-- The major opcode classes (R16, R85). -/
inductive OpClass where
  | lui
  | auipc
  | jal
  | jalr
  | branch
  | load
  | store
  | imm
  | op
  | miscFence
  | system
deriving DecidableEq, Repr

/-- The class of an instruction (R85, R86). -/
def opClassOf : Instr → OpClass
  | .lui _ _ => .lui
  | .auipc _ _ => .auipc
  | .jal _ _ => .jal
  | .jalr _ _ _ => .jalr
  | .beq _ _ _ => .branch
  | .bne _ _ _ => .branch
  | .blt _ _ _ => .branch
  | .bge _ _ _ => .branch
  | .bltu _ _ _ => .branch
  | .bgeu _ _ _ => .branch
  | .lb _ _ _ => .load
  | .lh _ _ _ => .load
  | .lw _ _ _ => .load
  | .lbu _ _ _ => .load
  | .lhu _ _ _ => .load
  | .sb _ _ _ => .store
  | .sh _ _ _ => .store
  | .sw _ _ _ => .store
  | .addi _ _ _ => .imm
  | .slti _ _ _ => .imm
  | .sltiu _ _ _ => .imm
  | .xori _ _ _ => .imm
  | .ori _ _ _ => .imm
  | .andi _ _ _ => .imm
  | .slli _ _ _ => .imm
  | .srli _ _ _ => .imm
  | .srai _ _ _ => .imm
  | .add _ _ _ => .op
  | .sub _ _ _ => .op
  | .sll _ _ _ => .op
  | .slt _ _ _ => .op
  | .sltu _ _ _ => .op
  | .xor _ _ _ => .op
  | .srl _ _ _ => .op
  | .sra _ _ _ => .op
  | .or _ _ _ => .op
  | .and _ _ _ => .op
  | .fence _ _ _ _ _ => .miscFence
  | .fenceI _ _ _ => .miscFence
  | .ecall => .system
  | .ebreak => .system
  | .csrrw _ _ _ => .system
  | .csrrs _ _ _ => .system
  | .csrrc _ _ _ => .system
  | .csrrwi _ _ _ => .system
  | .csrrsi _ _ _ => .system
  | .csrrci _ _ _ => .system

/-- The decoded record of R90. A field the format lacks is absent; `imm` is extended to 32 bits. -/
structure Decoded where
  mnemonic : String
  rd : Option RegIdx
  rs1 : Option RegIdx
  rs2 : Option RegIdx
  imm : Option Word
  csr : Option (BitVec 12)
  word : Word
deriving DecidableEq, Repr

/-- The record of an instruction (R90), from its format (R69 to R77) and its immediate (R78 to R83). FENCE's fields
have no effect (R77): its imm is the whole bits [31:20]. -/
def recordOf (i : Instr) : Decoded :=
  match i with
  | .lui rd imm => ⟨i.row.mnemonic, some rd, none, none, some (immU imm), none, encode i⟩
  | .auipc rd imm => ⟨i.row.mnemonic, some rd, none, none, some (immU imm), none, encode i⟩
  | .jal rd offset => ⟨i.row.mnemonic, some rd, none, none, some (sext offset), none, encode i⟩
  | .jalr rd rs1 imm => ⟨i.row.mnemonic, some rd, some rs1, none, some (sext imm), none, encode i⟩
  | .beq rs1 rs2 offset => ⟨i.row.mnemonic, none, some rs1, some rs2, some (sext offset), none, encode i⟩
  | .bne rs1 rs2 offset => ⟨i.row.mnemonic, none, some rs1, some rs2, some (sext offset), none, encode i⟩
  | .blt rs1 rs2 offset => ⟨i.row.mnemonic, none, some rs1, some rs2, some (sext offset), none, encode i⟩
  | .bge rs1 rs2 offset => ⟨i.row.mnemonic, none, some rs1, some rs2, some (sext offset), none, encode i⟩
  | .bltu rs1 rs2 offset => ⟨i.row.mnemonic, none, some rs1, some rs2, some (sext offset), none, encode i⟩
  | .bgeu rs1 rs2 offset => ⟨i.row.mnemonic, none, some rs1, some rs2, some (sext offset), none, encode i⟩
  | .lb rd rs1 imm => ⟨i.row.mnemonic, some rd, some rs1, none, some (sext imm), none, encode i⟩
  | .lh rd rs1 imm => ⟨i.row.mnemonic, some rd, some rs1, none, some (sext imm), none, encode i⟩
  | .lw rd rs1 imm => ⟨i.row.mnemonic, some rd, some rs1, none, some (sext imm), none, encode i⟩
  | .lbu rd rs1 imm => ⟨i.row.mnemonic, some rd, some rs1, none, some (sext imm), none, encode i⟩
  | .lhu rd rs1 imm => ⟨i.row.mnemonic, some rd, some rs1, none, some (sext imm), none, encode i⟩
  | .sb rs1 rs2 imm => ⟨i.row.mnemonic, none, some rs1, some rs2, some (sext imm), none, encode i⟩
  | .sh rs1 rs2 imm => ⟨i.row.mnemonic, none, some rs1, some rs2, some (sext imm), none, encode i⟩
  | .sw rs1 rs2 imm => ⟨i.row.mnemonic, none, some rs1, some rs2, some (sext imm), none, encode i⟩
  | .addi rd rs1 imm => ⟨i.row.mnemonic, some rd, some rs1, none, some (sext imm), none, encode i⟩
  | .slti rd rs1 imm => ⟨i.row.mnemonic, some rd, some rs1, none, some (sext imm), none, encode i⟩
  | .sltiu rd rs1 imm => ⟨i.row.mnemonic, some rd, some rs1, none, some (sext imm), none, encode i⟩
  | .xori rd rs1 imm => ⟨i.row.mnemonic, some rd, some rs1, none, some (sext imm), none, encode i⟩
  | .ori rd rs1 imm => ⟨i.row.mnemonic, some rd, some rs1, none, some (sext imm), none, encode i⟩
  | .andi rd rs1 imm => ⟨i.row.mnemonic, some rd, some rs1, none, some (sext imm), none, encode i⟩
  | .slli rd rs1 shamt => ⟨i.row.mnemonic, some rd, some rs1, none, some (zext shamt), none, encode i⟩
  | .srli rd rs1 shamt => ⟨i.row.mnemonic, some rd, some rs1, none, some (zext shamt), none, encode i⟩
  | .srai rd rs1 shamt => ⟨i.row.mnemonic, some rd, some rs1, none, some (zext shamt), none, encode i⟩
  | .add rd rs1 rs2 => ⟨i.row.mnemonic, some rd, some rs1, some rs2, none, none, encode i⟩
  | .sub rd rs1 rs2 => ⟨i.row.mnemonic, some rd, some rs1, some rs2, none, none, encode i⟩
  | .sll rd rs1 rs2 => ⟨i.row.mnemonic, some rd, some rs1, some rs2, none, none, encode i⟩
  | .slt rd rs1 rs2 => ⟨i.row.mnemonic, some rd, some rs1, some rs2, none, none, encode i⟩
  | .sltu rd rs1 rs2 => ⟨i.row.mnemonic, some rd, some rs1, some rs2, none, none, encode i⟩
  | .xor rd rs1 rs2 => ⟨i.row.mnemonic, some rd, some rs1, some rs2, none, none, encode i⟩
  | .srl rd rs1 rs2 => ⟨i.row.mnemonic, some rd, some rs1, some rs2, none, none, encode i⟩
  | .sra rd rs1 rs2 => ⟨i.row.mnemonic, some rd, some rs1, some rs2, none, none, encode i⟩
  | .or rd rs1 rs2 => ⟨i.row.mnemonic, some rd, some rs1, some rs2, none, none, encode i⟩
  | .and rd rs1 rs2 => ⟨i.row.mnemonic, some rd, some rs1, some rs2, none, none, encode i⟩
  | .fence fm pred succ rs1 rd => ⟨i.row.mnemonic, some rd, some rs1, none, some (sext (fm ++ pred ++ succ)), none, encode i⟩
  | .fenceI imm rs1 rd => ⟨i.row.mnemonic, some rd, some rs1, none, some (sext imm), none, encode i⟩
  | .ecall => ⟨i.row.mnemonic, none, none, none, none, none, encode i⟩
  | .ebreak => ⟨i.row.mnemonic, none, none, none, none, none, encode i⟩
  | .csrrw rd rs1 csr => ⟨i.row.mnemonic, some rd, some rs1, none, none, some csr, encode i⟩
  | .csrrs rd rs1 csr => ⟨i.row.mnemonic, some rd, some rs1, none, none, some csr, encode i⟩
  | .csrrc rd rs1 csr => ⟨i.row.mnemonic, some rd, some rs1, none, none, some csr, encode i⟩
  | .csrrwi rd uimm csr => ⟨i.row.mnemonic, some rd, none, none, some (zext uimm), some csr, encode i⟩
  | .csrrsi rd uimm csr => ⟨i.row.mnemonic, some rd, none, none, some (zext uimm), some csr, encode i⟩
  | .csrrci rd uimm csr => ⟨i.row.mnemonic, some rd, none, none, some (zext uimm), some csr, encode i⟩

/-- What is written to rd (the column `wb` of R101). -/
inductive WbSel where
  | none
  | immU
  | pcPlusImmU
  | link
  | loadData
  | aluResult
deriving DecidableEq, Repr

/-- `mem_op`, with width and signedness (R9, R101). -/
inductive MemOp where
  | none
  | load (w : Width) (e : Ext)
  | store (w : Width)
deriving DecidableEq, Repr

/-- Operand b of the ALU (R101). -/
inductive OperandB where
  | imm
  | rs2
deriving DecidableEq, Repr

/-- The control signals of R101. -/
structure Signals where
  wb : WbSel
  memOp : MemOp
  aluOp : Option AluOp
  operandB : OperandB
  cond : Option Cond
  pcSel : PcSel
deriving DecidableEq, Repr

/-- The ALU operation of an IMM or OP instruction, from its funct3 and funct7 (R101, R136). -/
def aluOpOf : Instr → Option AluOp
  | .addi _ _ _ => some .add
  | .slti _ _ _ => some .slt
  | .sltiu _ _ _ => some .sltu
  | .xori _ _ _ => some .xor
  | .ori _ _ _ => some .or
  | .andi _ _ _ => some .and
  | .slli _ _ _ => some .sll
  | .srli _ _ _ => some .srl
  | .srai _ _ _ => some .sra
  | .add _ _ _ => some .add
  | .sub _ _ _ => some .sub
  | .sll _ _ _ => some .sll
  | .slt _ _ _ => some .slt
  | .sltu _ _ _ => some .sltu
  | .xor _ _ _ => some .xor
  | .srl _ _ _ => some .srl
  | .sra _ _ _ => some .sra
  | .or _ _ _ => some .or
  | .and _ _ _ => some .and
  | _ => none

/-- The branch condition, from funct3 (R101, R118). -/
def condOf : Instr → Option Cond
  | .beq _ _ _ => some .eq
  | .bne _ _ _ => some .ne
  | .blt _ _ _ => some .lt
  | .bge _ _ _ => some .ge
  | .bltu _ _ _ => some .ltu
  | .bgeu _ _ _ => some .geu
  | _ => none

/-- The memory operation, from funct3 (R56, R101). -/
def memOpOf : Instr → MemOp
  | .lb _ _ _ => .load .byte .signed
  | .lh _ _ _ => .load .half .signed
  | .lw _ _ _ => .load .word .signed
  | .lbu _ _ _ => .load .byte .unsigned
  | .lhu _ _ _ => .load .half .unsigned
  | .sb _ _ _ => .store .byte
  | .sh _ _ _ => .store .half
  | .sw _ _ _ => .store .word
  | _ => .none

/-- The dispatcher's table, row by row (R101). -/
def signalsOf (i : Instr) : Signals :=
  match opClassOf i with
  | .lui => ⟨.immU, .none, none, .imm, none, .seq⟩
  | .auipc => ⟨.pcPlusImmU, .none, none, .imm, none, .seq⟩
  | .jal => ⟨.link, .none, none, .imm, none, .jal⟩
  | .jalr => ⟨.link, .none, none, .imm, none, .jalr⟩
  | .branch => ⟨.none, .none, none, .imm, condOf i, .branch⟩
  | .load => ⟨.loadData, memOpOf i, none, .imm, none, .seq⟩
  | .store => ⟨.none, memOpOf i, none, .imm, none, .seq⟩
  | .imm => ⟨.aluResult, .none, aluOpOf i, .imm, none, .seq⟩
  | .op => ⟨.aluResult, .none, aluOpOf i, .rs2, none, .seq⟩
  | .miscFence => ⟨.none, .none, none, .imm, none, .seq⟩
  | .system => ⟨.none, .none, none, .imm, none, .seq⟩

/-- The load-store unit (R9): the load data (0 when nothing is loaded) and the state after the access, or its fault. -/
def State.lsu (s : State) (op : MemOp) (addr data : Word) : Except FaultKind (Word × State) :=
  match op with
  | .none => .ok (0#32, s)
  | .load w e => (s.memRead addr w).map fun v => (extend w e v, s)
  | .store w => (s.memWrite addr w data).map fun s' => (0#32, s')

/-- Operand read, execute and commit of R96, driven by the signals: both registers and the pc are read first (R105); a
fault of the load-store unit changes nothing but the status (R102, R175); otherwise at most one memory write, at most
one register write and exactly one pc write take place (R103). -/
def datapath (i : Instr) (s : State) : State :=
  let d := recordOf i
  let g := signalsOf i
  let a := s.reg (d.rs1.getD 0#5)
  let b := s.reg (d.rs2.getD 0#5)
  let imm := d.imm.getD 0#32
  let aluOut := (g.aluOp.map fun op => alu op a (match g.operandB with | .imm => imm | .rs2 => b)).getD 0#32
  let taken := (g.cond.map fun c => c.holds a b).getD false
  match s.lsu g.memOp (a + imm) b with
  | .error k => s.takeFault k (some d.word)
  | .ok (loadData, s') =>
    let wb := match g.wb with
      | .none => none
      | .immU => some imm
      | .pcPlusImmU => some (s.pc + imm)
      | .link => some (s.pc + 4#32)
      | .loadData => some loadData
      | .aluResult => some aluOut
    let s'' := match wb with
      | none => s'
      | some v => s'.setReg (d.rd.getD 0#5) v
    s''.setPc (pcMux s.config g.pcSel s.pc taken imm a)

end Sys2Proof.Machine
end

