-- ==== Sys2Proof/Machine/HostInterface.lean ====
section
/-! DEFINITION. The host interface, the whole table of R196: create, load_segment, reset, step (Step.lean), run and the
snapshot. One State is one instance; instances share nothing (R41). -/

namespace Sys2Proof.Machine

/-- `create` (R191, R196): all memory 0, no step before a reset. Before the first reset the register file and the pc
hold no defined value, so they are arguments (assumption 11). A configuration outside R7 is refused (D9). -/
def create (c : Config) (powerOnRegs : Vector Word 32) (powerOnPc : Word) : Result :=
  if c.wf then
    .next { config := c, regs := powerOnRegs.set 0 0#32, pc := powerOnPc, mem := [], status := .running,
            lifecycle := .created }
  else .refused .badConfig

/-- `load_segment`, which is `write_bytes` (R49, R192), in unbounded integers and with no alignment requirement.
Refused once a step has been made (R193, U18). -/
def loadSegment (data : List Byte) (address : Nat) (s : State) : Result :=
  match s.lifecycle with
  | .started => .refused .hostWriteAfterStep
  | _ =>
    if address < s.config.base ∨ s.config.base + s.config.size < address + data.length then
      .fault .segmentOutOfBounds
    else .next { s with mem := s.mem.writeBytes address data }

/-- The lifecycle after a reset: the first reset makes steps possible, a later one does not open the loading window
again (R193, R195, assumption 6). -/
def Lifecycle.afterReset : Lifecycle → Lifecycle
  | .created => .ready
  | .ready => .ready
  | .started => .started

/-- `reset(entry_pc)` (R190). x1..x31 take unspecified values: `draw` is that draw, and a claim about a reset holds for
every one (D19). Memory is not changed, and entry_pc is not checked. -/
def resetTo (entry : Word) (draw : Vector Word 32) (s : State) : State :=
  { s with regs := draw.set 0 0#32, pc := entry, status := .running, lifecycle := s.lifecycle.afterReset }

/-- The outcome a step returns: `continue` if the status stays RUNNING, and otherwise `halt(reason)` (R37). -/
inductive StepOutcome where
  | continue
  | halt (r : HaltReason)
deriving DecidableEq, Repr

/-- The outcome read off the state after the step (R37, R194). -/
def State.outcome (s : State) : StepOutcome :=
  match s.status with
  | .running => .continue
  | .halted r => .halt r

/-- What `run` returns (R197). -/
inductive RunResult where
  | success
  | fault (kind : FaultKind) (fpc : Word) (word : Option Word)
  | budgetExceeded
deriving DecidableEq, Repr

/-- The result of `run` for a halt (R197). -/
def HaltReason.runResult : HaltReason → RunResult
  | .success => .success
  | .fault k p w => .fault k p w

/-- The loop of `run(max_steps)` (R197): every step counts, the sentinel step included. -/
def runLoop : Nat → State → Host.Outcome (State × RunResult) Fault Refusal
  | 0, s => .next (s, .budgetExceeded)
  | n + 1, s =>
    match step s with
    | .next s' =>
      match s'.outcome with
      | .halt r => .next (s', r.runResult)
      | .continue => runLoop n s'
    | .fault r => .fault r
    | .refused r => .refused r

/-- `run(max_steps)` (R197), with the state it leaves. Refused, for every budget, before the first reset (R195). -/
def run (n : Nat) (s : State) : Host.Outcome (State × RunResult) Fault Refusal :=
  match s.lifecycle with
  | .created => .refused .notReset
  | _ => runLoop n s

/-- The snapshot of all 33 register-file words, x0..x31 and then the pc (R25, R40). -/
def State.snapshot (s : State) : Vector Word 33 :=
  Vector.ofFn fun i : Fin 33 => if i.val < 32 then s.reg (BitVec.ofNat 5 i.val) else s.pc

/-- The code numbers of R171, the spec's own. -/
def faultCode : FaultKind → Nat
  | .outOfBounds => 1
  | .unaligned => 2
  | .unknownOpcode => 3
  | .unknownFunct3 => 4
  | .unknownFunct7 => 5

end Sys2Proof.Machine
end

