-- ==== Sys2Proof/Safety.lean ====
section
/-! DEFINITION. The terms the claims use: what a step leaves unchanged, which states are legal, and which instruction may
do what (R27, R48, R108, R172). -/

namespace Sys2Proof.Machine

/-- The byte at an address, as the model reads it (R43). -/
def byteAt (s : State) (a : Nat) : Byte := s.mem.read a

/-! ## Frames -/

/-- Every byte of memory reads as before. -/
def SameMemory (s t : State) : Prop := ∀ a, byteAt t a = byteAt s a

/-- Every register x0..x31 reads as before. -/
def SameRegs (s t : State) : Prop := ∀ r, t.reg r = s.reg r

/-- Configuration, halt status and lifecycle are as before. -/
def SameControl (s t : State) : Prop :=
  t.config = s.config ∧ t.status = s.status ∧ t.lifecycle = s.lifecycle

/-- `t` is `s` after a write of `v` to `rd`, going on at `next`, and nothing else. A write of x0 is discarded: x0 reads 0
and nothing but the pc changes (R26). -/
def WritesRegister (rd : RegIdx) (v next : Word) (s t : State) : Prop :=
  (∀ r, t.reg r = if r = 0#5 then 0#32 else if r = rd then v else s.reg r) ∧
    t.pc = next ∧ SameMemory s t ∧ SameControl s t

/-- `t` is `s` going on at `next`, and nothing else. -/
def WritesOnlyPc (next : Word) (s t : State) : Prop :=
  SameRegs s t ∧ t.pc = next ∧ SameMemory s t ∧ SameControl s t

/-- `t` is `s` with the low `n` bytes of `v` stored at `a`, little-endian, going on at pc + 4, and nothing else: every byte
outside [a, a+n) reads as before. -/
def StoresBytes (a : Word) (n : Nat) (v : Word) (s t : State) : Prop :=
  (∀ k, k < n → byteAt t (a.toNat + k) = v.extractLsb' (8 * k) 8) ∧
    (∀ b, b < a.toNat ∨ a.toNat + n ≤ b → byteAt t b = byteAt s b) ∧
    SameRegs s t ∧ t.pc = s.pc + 4#32 ∧ SameControl s t

/-- `t` is `s` halted by `r`: no register, no byte and not the pc has changed (R99, R175). -/
def HaltsWith (r : HaltReason) (s t : State) : Prop :=
  t.status = .halted r ∧ SameRegs s t ∧ t.pc = s.pc ∧ SameMemory s t ∧ t.config = s.config ∧
    t.lifecycle = s.lifecycle

/-- The span [a, a+n) lies inside [BASE, BASE+SIZE), in unbounded integers (R50). -/
abbrev Mapped (s : State) (a : Word) (n : Nat) : Prop :=
  s.config.base ≤ a.toNat ∧ a.toNat + n ≤ s.config.base + s.config.size

/-- The address is a multiple of 4 (R53). -/
abbrev WordAligned (a : Word) : Prop := a.toNat % 4 = 0

/-- The instance has been reset and has not halted, so the next step is a real one (R96). -/
abbrev Runnable (s : State) : Prop := s.lifecycle ≠ .created ∧ s.status = .running

/-- A pc whose word is not mapped, or that is no multiple of 4, faults at the fetch of the next step, with that pc and no
word, and changes nothing (R32, R97). -/
def BadPcFaultsAtFetch (t : State) : Prop :=
  Runnable t →
    (¬ Mapped t t.pc 4 → ∃ u, step t = .next u ∧ HaltsWith (.fault .outOfBounds t.pc none) t.start u) ∧
    (Mapped t t.pc 4 → ¬ WordAligned t.pc →
      ∃ u, step t = .next u ∧ HaltsWith (.fault .unaligned t.pc none) t.start u)

/-- The four bytes at an address as a little-endian word (R44). -/
def wordAt (s : State) (a : Nat) : Word :=
  byteAt s (a + 3) ++ byteAt s (a + 2) ++ byteAt s (a + 1) ++ byteAt s a

/-! ## Legal states -/

/-- The invariant of the model. It holds at State.reset, every host operation establishes or keeps it, and every step
keeps it. -/
structure Legal (s : State) : Prop where
  /-- The configuration meets R7. -/
  config_wf : s.config.wf
  /-- Memory is in its canonical form. -/
  mem_wf : s.mem.wf
  /-- Memory lists only addresses of the region, the only ones that exist (R43, R46). -/
  mem_mapped : ∀ c ∈ s.mem, s.config.base ≤ c.1 ∧ c.1 < s.config.base + s.config.size
  /-- The stored x0 is 0 (R26). -/
  x0_zero : s.regs[0] = 0#32
  /-- Only a step halts the core (R37). -/
  halted_started : s.status ≠ .running → s.lifecycle = .started
  /-- A halt recurs identically on retry (R106, R175): the halted state is what the step that halted gives again. -/
  halt_recurs : s.status ≠ .running → step { s with status := .running } = .next s

/-! ## What an instruction may do -/

/-- The register an instruction writes (R27): rd for LUI, AUIPC, JAL, JALR, LOAD, IMM and OP, and none for BRANCH, STORE,
MISC-FENCE and SYSTEM. -/
def destOf (i : Instr) : Option RegIdx :=
  match opClassOf i with
  | .lui => (recordOf i).rd
  | .auipc => (recordOf i).rd
  | .jal => (recordOf i).rd
  | .jalr => (recordOf i).rd
  | .load => (recordOf i).rd
  | .imm => (recordOf i).rd
  | .op => (recordOf i).rd
  | .branch => none
  | .store => none
  | .miscFence => none
  | .system => none

/-- Does an instruction make a data access, and how wide (R56, R172)? -/
def accessWidth (i : Instr) : Option Width :=
  match memOpOf i with
  | .none => none
  | .load w _ => some w
  | .store w => some w

/-- The address of the data access of a load or store: base register plus displacement, modulo 2^32 (R47). -/
def accessAddr (i : Instr) (s : State) : Word :=
  s.reg ((recordOf i).rs1.getD 0#5) + (recordOf i).imm.getD 0#32

/-- Is it a store (R48)? -/
def isStore (i : Instr) : Bool := opClassOf i == .store

end Sys2Proof.Machine
end

