-- ==== Sys2Proof/Certificates/Slice0/Obligations.lean ====
section
/-! DEFINITION. The statements for the provers. Instruction words are written out here from the formats and tables of
30_encoding.md, not through the model's encoder. -/

open Sys2Proof Sys2Proof.Machine

/-! ## Reset and the host interface -/

/-- `reset(entry_pc)` (R190): pc, status, x0, an arbitrary draw in x1..x31, memory and configuration unchanged; entry_pc is
not checked, and a bad one faults at the first fetch. -/
def Obligations.ResetSetsPcAndStatusAndKeepsMemory : Prop :=
  ∀ (entry : Word) (draw : Vector Word 32) (s : State),
    (resetTo entry draw s).pc = entry ∧
    (resetTo entry draw s).status = .running ∧
    (resetTo entry draw s).reg 0#5 = 0#32 ∧
    (∀ r : RegIdx, r ≠ 0#5 → (resetTo entry draw s).reg r = draw[r.toNat]'r.isLt) ∧
    SameMemory s (resetTo entry draw s) ∧
    (resetTo entry draw s).config = s.config ∧
    (¬ Mapped s entry 4 →
      ∃ u, step (resetTo entry draw s) = .next u ∧ u.outcome = .halt (.fault .outOfBounds entry none)) ∧
    (Mapped s entry 4 → ¬ WordAligned entry →
      ∃ u, step (resetTo entry draw s) = .next u ∧ u.outcome = .halt (.fault .unaligned entry none))

/-- State.reset is a freshly created instance after a reset: running, all memory 0, x0 = 0, the defaults of R7. Its pc, its
x1..x31 and its sentinel are the model's choices (assumptions 2, 4, 5), and nothing is said of them. -/
def Obligations.ResetStateIsAFreshInstanceAfterReset : Prop :=
  State.reset.status = .running ∧
  State.reset.reg 0#5 = 0#32 ∧
  (∀ a, byteAt State.reset a = 0#8) ∧
  State.reset.config.base = 0x80000000 ∧
  State.reset.config.size = 0x10000 ∧
  State.reset.config.jalrClearsBit0 = false ∧
  (∀ (regs : Vector Word 32) (pc : Word), ∃ s, create State.reset.config regs pc = .next s ∧
    resetTo State.reset.pc State.reset.regs s = State.reset)

/-- Instance creation (R191, D9): a configuration that meets R7 gives an instance with that configuration, every byte 0,
which does not step; any other configuration is refused. That a sentinel which is no SYSTEM word counts as such is the
model's reading (assumption 14, DEDUCED): D9 refuses a broken size and range constraint, R98 describes the parameter. -/
def Obligations.CreateZeroFillsMemoryOrRefuses : Prop :=
  ∀ (c : Config) (regs : Vector Word 32) (pc : Word),
    (0 < c.size ∧ c.base + c.size ≤ 2 ^ 32 ∧ c.sentinel.extractLsb' 0 7 = 0b1110011#7 →
      ∃ s, create c regs pc = .next s ∧ s.config = c ∧ (∀ a, byteAt s a = 0#8) ∧ step s = .refused .notReset) ∧
    (¬ (0 < c.size ∧ c.base + c.size ≤ 2 ^ 32 ∧ c.sentinel.extractLsb' 0 7 = 0b1110011#7) →
      create c regs pc = .refused .badConfig)

/-- Before the first reset a step, and a run of any budget, is refused (R195). -/
def Obligations.StepAndRunRefusedBeforeFirstReset : Prop :=
  ∀ s : State, s.lifecycle = .created →
    step s = .refused .notReset ∧ ∀ n, run n s = .refused .notReset

/-- `write_bytes` (R49): OutOfBounds and no byte copied, or every byte copied and nothing else changed. -/
def Obligations.LoadSegmentCopiesEveryByteOrFails : Prop :=
  ∀ (data : List Byte) (address : Nat) (s : State), s.mem.wf → s.lifecycle ≠ .started →
    ((address < s.config.base ∨ address + data.length > s.config.base + s.config.size) →
      loadSegment data address s = .fault .segmentOutOfBounds) ∧
    (s.config.base ≤ address ∧ address + data.length ≤ s.config.base + s.config.size →
      ∃ t, loadSegment data address s = .next t ∧
        (∀ k (h : k < data.length), byteAt t (address + k) = data[k]) ∧
        (∀ a, a < address ∨ address + data.length ≤ a → byteAt t a = byteAt s a) ∧
        SameRegs s t ∧ t.pc = s.pc ∧ SameControl s t)

/-- After any step, and after any later reset, a host write to memory is refused (R193). -/
def Obligations.HostWriteRefusedAfterAStep : Prop :=
  ∀ (s t : State), Legal s → step s = .next t →
    ∀ (data : List Byte) (address : Nat) (entry : Word) (draw : Vector Word 32),
      loadSegment data address t = .refused .hostWriteAfterStep ∧
      loadSegment data address (resetTo entry draw t) = .refused .hostWriteAfterStep

/-- A halted core stays halted: a step changes nothing and returns the same halt; only a reset makes it run (R194). -/
def Obligations.HaltedCoreStaysHaltedUntilReset : Prop :=
  ∀ (s : State) (r : HaltReason), s.lifecycle ≠ .created → s.status = .halted r →
    step s = .next s ∧ s.outcome = .halt r ∧
    (∀ data address t, loadSegment data address s = .next t → t.status = .halted r) ∧
    (∀ entry draw, (resetTo entry draw s).outcome = .continue)

/-! ## The step -/

/-- The fetch unit (R55, R97): OutOfBounds, else Unaligned, else the little-endian word at the pc. A fetch fault records no
word and changes nothing else. -/
def Obligations.FetchFaultsOrReadsTheWordAtPc : Prop :=
  ∀ s : State, Runnable s →
    (¬ Mapped s s.pc 4 →
      ∃ t, step s = .next t ∧ HaltsWith (.fault .outOfBounds s.pc none) s.start t) ∧
    (Mapped s s.pc 4 → ¬ WordAligned s.pc →
      ∃ t, step s = .next t ∧ HaltsWith (.fault .unaligned s.pc none) s.start t) ∧
    (Mapped s s.pc 4 → WordAligned s.pc → s.fetch = .ok (wordAt s s.pc.toNat))

/-- The sentinel halts the step with success before decode, whatever the word decodes to, and writes no register, no
memory and not the pc (R98, R99). -/
def Obligations.SentinelHaltsWithoutAnyWrite : Prop :=
  ∀ s : State, Runnable s → Mapped s s.pc 4 → WordAligned s.pc → wordAt s s.pc.toNat = s.config.sentinel →
    ∃ t, step s = .next t ∧ HaltsWith .success s.start t

/-- A word that does not decode halts the step with the decoder's kind, the pc and the word, and changes nothing (R100). -/
def Obligations.DecodeFaultHaltsAndMutatesNothing : Prop :=
  ∀ (s : State) (k : FaultKind), Runnable s → Mapped s s.pc 4 → WordAligned s.pc →
    wordAt s s.pc.toNat ≠ s.config.sentinel → decode (wordAt s s.pc.toNat) = .error k →
    ∃ t, step s = .next t ∧ HaltsWith (.fault k s.pc (some (wordAt s s.pc.toNat))) s.start t

/-- A step runs the instruction its fetched word decodes to, at that state (R96). Around it the step only marks that
stepping has begun (`start`, assumption 6). -/
def Obligations.StepRunsTheDecodedInstruction : Prop :=
  ∀ (s : State) (i : Instr), Runnable s → Mapped s s.pc 4 → WordAligned s.pc →
    wordAt s s.pc.toNat ≠ s.config.sentinel → decode (wordAt s s.pc.toNat) = .ok i →
    step s = exec i s.start ∧
      SameRegs s s.start ∧ s.start.pc = s.pc ∧ SameMemory s s.start ∧ s.start.config = s.config ∧
      s.start.status = s.status

/-- The checks of a step in the order of R174: fetch bounds, fetch alignment, sentinel, the decoder's kinds, data bounds,
data alignment. The record holds the pc and, but for a fetch fault, the fetched word (R173). -/
def Obligations.StepOutcomeFollowsThePriorityOrder : Prop :=
  ∀ s : State, Runnable s → ∃ t, step s = .next t ∧
    t.outcome =
      if ¬ Mapped s s.pc 4 then .halt (.fault .outOfBounds s.pc none)
      else if ¬ WordAligned s.pc then .halt (.fault .unaligned s.pc none)
      else if wordAt s s.pc.toNat = s.config.sentinel then .halt .success
      else match decode (wordAt s s.pc.toNat) with
        | .error k => .halt (.fault k s.pc (some (wordAt s s.pc.toNat)))
        | .ok i =>
          match accessWidth i with
          | none => .continue
          | some w =>
            if ¬ Mapped s (accessAddr i s) w.bytes then
              .halt (.fault .outOfBounds s.pc (some (wordAt s s.pc.toNat)))
            else if w = .word ∧ ¬ WordAligned (accessAddr i s) then
              .halt (.fault .unaligned s.pc (some (wordAt s s.pc.toNat)))
            else .continue

/-- Every pc from which an instruction completes is a multiple of 4. A step may leave another pc; then it is the next
step's fetch that faults, with Unaligned inside the region and OutOfBounds outside (R32, R33). -/
def Obligations.OnlyAlignedPcsComplete : Prop :=
  ∀ s t : State, Runnable s → step s = .next t → t.outcome = .continue →
    Mapped s s.pc 4 ∧ WordAligned s.pc ∧
    (Mapped t t.pc 4 → ¬ WordAligned t.pc →
      ∃ u, step t = .next u ∧ HaltsWith (.fault .unaligned t.pc none) t u) ∧
    (¬ Mapped t t.pc 4 → ∃ u, step t = .next u ∧ HaltsWith (.fault .outOfBounds t.pc none) t u)

/-! ## Encoding and decoding -/

/-- Decoding the word of a well-formed instruction gives it back, every operand at every value. -/
def Obligations.DecodeOfEncodeIsTheInstruction : Prop :=
  ∀ i : Instr, i.wf = true → decode (encode i) = .ok i

/-- Every word the decoder accepts is well formed and is the encoding of what it decodes to: no bit is dropped. -/
def Obligations.EncodeOfDecodeIsTheWord : Prop :=
  ∀ (w : Word) (i : Instr), decode w = .ok i → i.wf = true ∧ encode i = w

/-- The decoder accepts exactly the words of some row of spec/opcode_table.json, as that row's instruction, and no word is
of two rows. -/
def Obligations.DecoderAgreesWithTheOpcodeTable : Prop :=
  (∀ (w : Word) (i : Instr), decode w = .ok i → i.row ∈ opcodeTable ∧ w &&& i.row.mask = i.row.bits) ∧
  (∀ (w : Word) (r : OpcodeRow), r ∈ opcodeTable → w &&& r.mask = r.bits → ∃ i, decode w = .ok i ∧ i.row = r) ∧
  (∀ (w : Word) (r q : OpcodeRow), r ∈ opcodeTable → q ∈ opcodeTable →
    w &&& r.mask = r.bits → w &&& q.mask = q.bits → r = q)

/-- Which words fail with UnknownOpcode and which with UnknownFunct3 (R85, R86). -/
def Obligations.UnknownOpcodeAndUnknownFunct3Words : Prop :=
  ∀ w : Word,
    (decode w = .error .unknownOpcode ↔
      w.extractLsb' 0 7 ∉ [0b0000011#7, 0b0001111#7, 0b0010011#7, 0b0010111#7, 0b0100011#7, 0b0110011#7, 0b0110111#7,
        0b1100011#7, 0b1100111#7, 0b1101111#7, 0b1110011#7]) ∧
    (decode w = .error .unknownFunct3 ↔
      (w.extractLsb' 0 7 = 0b1100111#7 ∧ w.extractLsb' 12 3 ≠ 0b000#3) ∨
      (w.extractLsb' 0 7 = 0b1100011#7 ∧ w.extractLsb' 12 3 ∈ [0b010#3, 0b011#3]) ∨
      (w.extractLsb' 0 7 = 0b0000011#7 ∧ w.extractLsb' 12 3 ∈ [0b011#3, 0b110#3, 0b111#3]) ∨
      (w.extractLsb' 0 7 = 0b0100011#7 ∧ w.extractLsb' 12 3 ∉ [0b000#3, 0b001#3, 0b010#3]) ∨
      (w.extractLsb' 0 7 = 0b0001111#7 ∧ w.extractLsb' 12 3 ∉ [0b000#3, 0b001#3]) ∨
      (w.extractLsb' 0 7 = 0b1110011#7 ∧ w.extractLsb' 12 3 = 0b100#3))

/-- The decode faults of the ALU classes (R157): never UnknownFunct3 nor UnknownOpcode, and UnknownFunct7 for exactly
these words. -/
def Obligations.AluClassDecodeFaults : Prop :=
  ∀ w : Word, w.extractLsb' 0 7 = 0b0010011#7 ∨ w.extractLsb' 0 7 = 0b0110011#7 →
    decode w ≠ .error .unknownFunct3 ∧ decode w ≠ .error .unknownOpcode ∧
    (decode w = .error .unknownFunct7 ↔
      (w.extractLsb' 0 7 = 0b0010011#7 ∧ w.extractLsb' 12 3 = 0b001#3 ∧ w.extractLsb' 25 7 ≠ 0b0000000#7) ∨
      (w.extractLsb' 0 7 = 0b0010011#7 ∧ w.extractLsb' 12 3 = 0b101#3 ∧ w.extractLsb' 25 7 ≠ 0b0000000#7 ∧
        w.extractLsb' 25 7 ≠ 0b0100000#7) ∨
      (w.extractLsb' 0 7 = 0b0110011#7 ∧ w.extractLsb' 25 7 ≠ 0b0000000#7 ∧
        ¬ (w.extractLsb' 25 7 = 0b0100000#7 ∧ w.extractLsb' 12 3 ∈ [0b000#3, 0b101#3])))

/-- SYSTEM words that are no instruction: funct3 000 other than the exact ECALL and EBREAK words (MRET, SRET, URET, WFI and
SFENCE.VMA among them) with UnknownFunct7, and funct3 100 with UnknownFunct3. The step changes nothing (R162, R170). -/
def Obligations.OtherSystemWordsFault : Prop :=
  (∀ s : State, Runnable s → Mapped s s.pc 4 → WordAligned s.pc → wordAt s s.pc.toNat ≠ s.config.sentinel →
    (wordAt s s.pc.toNat).extractLsb' 0 7 = 0b1110011#7 → (wordAt s s.pc.toNat).extractLsb' 12 3 = 0b000#3 →
    wordAt s s.pc.toNat ≠ 0x00000073#32 → wordAt s s.pc.toNat ≠ 0x00100073#32 →
    ∃ t, step s = .next t ∧ HaltsWith (.fault .unknownFunct7 s.pc (some (wordAt s s.pc.toNat))) s.start t) ∧
  (∀ s : State, Runnable s → Mapped s s.pc 4 → WordAligned s.pc → wordAt s s.pc.toNat ≠ s.config.sentinel →
    (wordAt s s.pc.toNat).extractLsb' 0 7 = 0b1110011#7 → (wordAt s s.pc.toNat).extractLsb' 12 3 = 0b100#3 →
    ∃ t, step s = .next t ∧ HaltsWith (.fault .unknownFunct3 s.pc (some (wordAt s s.pc.toNat))) s.start t) ∧
  (∀ w ∈ [0x000000F3#32, 0x30200073#32, 0x10200073#32, 0x00200073#32, 0x10500073#32],
    decode w = .error .unknownFunct7) ∧
  (∀ rs2 rs1 rd : RegIdx, decode (0b0001001#7 ++ rs2 ++ rs1 ++ 0b000#3 ++ rd ++ 0b1110011#7) = .error .unknownFunct7)

/-- A few words of the spec's own examples decode to the instruction they stand for (95_test_vectors.md). -/
def Obligations.SampleWordsDecode : Prop :=
  decode 0x00100093#32 = .ok (.addi 1 0 1) ∧
  decode 0xFE209CE3#32 = .ok (.bne 1 2 (-8)) ∧
  decode 0xFFDFF0EF#32 = .ok (.jal 1 (-4)) ∧
  decode 0xFE312E23#32 = .ok (.sw 2 3 (-4)) ∧
  decode 0x40415093#32 = .ok (.srai 1 2 4) ∧
  decode 0x403150B3#32 = .ok (.sra 1 2 3) ∧
  decode 0x123452B7#32 = .ok (.lui 5 0x12345) ∧
  decode 0x340312F3#32 = .ok (.csrrw 5 6 0x340)

/-- The sign extension law (R84), at the three widths the formats use. -/
def Obligations.SignExtensionLaw : Prop :=
  (∀ v : BitVec 12, sext v = if v.toNat < 2 ^ 11 then BitVec.ofNat 32 v.toNat else BitVec.ofInt 32 (v.toNat - 2 ^ 12)) ∧
  (∀ v : BitVec 13, sext v = if v.toNat < 2 ^ 12 then BitVec.ofNat 32 v.toNat else BitVec.ofInt 32 (v.toNat - 2 ^ 13)) ∧
  (∀ v : BitVec 21, sext v = if v.toNat < 2 ^ 20 then BitVec.ofNat 32 v.toNat else BitVec.ofInt 32 (v.toNat - 2 ^ 21))

/-- Every decoded branch and jump offset is even and lies in its range (R80, R82). -/
def Obligations.DecodedOffsetsAreEvenAndInRange : Prop :=
  ∀ w : Word,
    ((sext (immBOf w)).toInt % 2 = 0 ∧ -4096 ≤ (sext (immBOf w)).toInt ∧ (sext (immBOf w)).toInt ≤ 4094) ∧
    ((sext (immJOf w)).toInt % 2 = 0 ∧ -2 ^ 20 ≤ (sext (immJOf w)).toInt ∧ (sext (immJOf w)).toInt ≤ 2 ^ 20 - 2)

/-! ## Registers, memory, configuration: whole-machine rules -/

/-- x0 is hard-wired (R26): it reads 0, a write of it is no effect and no fault, after every sequence of writes; another
register reads what was last written to it and no other. -/
def Obligations.XZeroReadsZeroAndDiscardsWrites : Prop :=
  ∀ (s : State) (v : Word),
    s.reg 0#5 = 0#32 ∧ s.setReg 0#5 v = s ∧
    (∀ vs : List Word, (vs.foldl (fun u x => u.setReg 0#5 x) s).reg 0#5 = 0#32) ∧
    (∀ i, i ≠ 0#5 → (s.setReg i v).reg i = v ∧ ∀ j, j ≠ i → (s.setReg i v).reg j = s.reg j)

/-- Only the rd of LUI, AUIPC, JAL, JALR, LOAD, IMM and OP is ever written; BRANCH, STORE, MISC-FENCE and SYSTEM, the CSR
instructions among them, write no register (R27). -/
def Obligations.OnlyTheDestinationRegisterChanges : Prop :=
  ∀ (i : Instr) (s t : State), exec i s = .next t →
    ∀ r, t.reg r ≠ s.reg r → r ≠ 0#5 ∧ destOf i = some r

/-- During execution only STORE instructions change memory, and only the bytes of their own access (R48, R58). -/
def Obligations.OnlyStoresChangeMemory : Prop :=
  ∀ (i : Instr) (s t : State), s.mem.wf → exec i s = .next t →
    ∀ a, byteAt t a ≠ byteAt s a →
      isStore i = true ∧ ∃ w, accessWidth i = some w ∧
        (accessAddr i s).toNat ≤ a ∧ a < (accessAddr i s).toNat + w.bytes

/-- BASE, SIZE, SENTINEL_WORD and JALR_CLEARS_BIT0 are fixed for the life of an instance: no step, no load and no reset
changes them (R7, R8). -/
def Obligations.ConfigurationNeverChanges : Prop :=
  ∀ s t : State,
    (step s = .next t → t.config = s.config) ∧
    (∀ data address, loadSegment data address s = .next t → t.config = s.config) ∧
    (∀ entry draw, (resetTo entry draw s).config = s.config)

/-- Which executed instruction raises which fault (R172): only a load or a store, OutOfBounds for a span that is not
mapped, Unaligned for LW and SW only; every other instruction completes. The fault changes nothing (R175). That it
records `encode i` is the model's reading (assumption 8, DEDUCED). -/
def Obligations.OnlyDataAccessesFaultInExecution : Prop :=
  ∀ (i : Instr) (s t : State), exec i s = .next t → t.status = s.status ∨
    ∃ k w, accessWidth i = some w ∧ HaltsWith (.fault k s.pc (some (encode i))) s t ∧
      ((k = .outOfBounds ∧ ¬ Mapped s (accessAddr i s) w.bytes) ∨
       (k = .unaligned ∧ w = .word ∧ Mapped s (accessAddr i s) 4 ∧ ¬ WordAligned (accessAddr i s)))

/-- `MemRead` and `MemWrite` (R51, R52): bounds, then alignment for 4 bytes only, then the little-endian bytes; a write that
raises answers no new memory, one that does not changes exactly its bytes. -/
def Obligations.MemoryAccessesCheckBoundsThenAlignment : Prop :=
  ∀ (s : State) (a : Word) (w : Width) (v : Word), s.mem.wf →
    (¬ Mapped s a w.bytes → s.memRead a w = .error .outOfBounds ∧ s.memWrite a w v = .error .outOfBounds) ∧
    (Mapped s a w.bytes → w = .word → ¬ WordAligned a →
      s.memRead a w = .error .unaligned ∧ s.memWrite a w v = .error .unaligned) ∧
    (Mapped s a w.bytes → (w = .word → WordAligned a) →
      (∃ x, s.memRead a w = .ok x ∧
        ∀ k, k < 4 → x.extractLsb' (8 * k) 8 = if k < w.bytes then byteAt s (a.toNat + k) else 0#8) ∧
      (∃ t, s.memWrite a w v = .ok t ∧
        (∀ b, byteAt t b = if a.toNat ≤ b ∧ b < a.toNat + w.bytes then v.extractLsb' (8 * (b - a.toNat)) 8
          else byteAt s b) ∧
        SameRegs s t ∧ t.pc = s.pc ∧ SameControl s t))

/-- The mixed-width view of memory (R45). -/
def Obligations.MixedWidthAccessesAgree : Prop :=
  ∀ (s : State) (a v : Word), s.mem.wf → WordAligned a → Mapped s a 4 →
    ∃ x, s.memRead a .word = .ok x ∧
      (∀ k, k < 4 → s.memRead (a + BitVec.ofNat 32 k) .byte = .ok ((x.extractLsb' (8 * k) 8).setWidth 32)) ∧
      (∀ j, j < 2 → s.memRead (a + BitVec.ofNat 32 (2 * j)) .half = .ok ((x.extractLsb' (16 * j) 16).setWidth 32)) ∧
      (∃ t, s.memWrite a .word v = .ok t ∧
        ∀ k, k < 4 → t.memRead (a + BitVec.ofNat 32 k) .byte = .ok ((v.extractLsb' (8 * k) 8).setWidth 32)) ∧
      (∀ k, k < 4 → ∃ t y, s.memWrite (a + BitVec.ofNat 32 k) .byte v = .ok t ∧ t.memRead a .word = .ok y ∧
        ∀ j, j < 4 → y.extractLsb' (8 * j) 8 = if j = k then v.extractLsb' 0 8 else x.extractLsb' (8 * j) 8)

/-- Instruction fetch is coherent with stores: a word stored at pc + 4 is what the next sequential step executes, with no
fence (R62). -/
def Obligations.StoredWordIsExecutedNext : Prop :=
  ∀ (s : State) (rs1 rs2 : RegIdx) (imm : BitVec 12) (i : Instr), s.mem.wf → Runnable s →
    s.reg rs1 + imm.signExtend 32 = s.pc + 4#32 → Mapped s (s.pc + 4#32) 4 → WordAligned (s.pc + 4#32) →
    s.reg rs2 ≠ s.config.sentinel → decode (s.reg rs2) = .ok i →
    ∃ t, exec (.sw rs1 rs2 imm) s = .next t ∧ t.fetch = .ok (s.reg rs2) ∧ step t = exec i t.start

/-! ## Upper immediates -/

/-- LUI (R113). -/
def Obligations.LuiWritesTheShiftedImmediate : Prop :=
  ∀ (rd : RegIdx) (imm : BitVec 20) (s : State),
    decode (imm ++ rd ++ 0b0110111#7) = .ok (.lui rd imm) ∧
    ∃ t, exec (.lui rd imm) s = .next t ∧ WritesRegister rd (imm.setWidth 32 <<< 12) (s.pc + 4#32) s t

/-- AUIPC (R114). -/
def Obligations.AuipcAddsTheShiftedImmediateToPc : Prop :=
  ∀ (rd : RegIdx) (imm : BitVec 20) (s : State),
    decode (imm ++ rd ++ 0b0010111#7) = .ok (.auipc rd imm) ∧
    ∃ t, exec (.auipc rd imm) s = .next t ∧ WritesRegister rd (s.pc + imm.setWidth 32 <<< 12) (s.pc + 4#32) s t

/-! ## Jumps and branches -/

/-- JAL (R115): the bits of the offset stand in the word as R74 has them; the link and the jump for every offset. A bad
target faults at the next fetch, not at the JAL. -/
def Obligations.JalLinksAndJumpsRelative : Prop :=
  (∀ (i20 i11 : BitVec 1) (i10_1 : BitVec 10) (i19_12 : BitVec 8) (rd : RegIdx),
    decode (i20 ++ i10_1 ++ i11 ++ i19_12 ++ rd ++ 0b1101111#7) =
      .ok (.jal rd (i20 ++ i19_12 ++ i11 ++ i10_1 ++ 0#1))) ∧
  (∀ (rd : RegIdx) (offset : BitVec 21) (s : State),
    ∃ t, exec (.jal rd offset) s = .next t ∧ WritesRegister rd (s.pc + 4#32) (s.pc + offset.signExtend 32) s t ∧
      BadPcFaultsAtFetch t)

/-- JALR (R117): the target is from the old x[rs1], also when rd is rs1; bit 0 is cleared only by the parameter; another
funct3 is UnknownFunct3. A bad target faults at the next fetch, not at the JALR. -/
def Obligations.JalrLinksAndJumpsThroughTheOldRegister : Prop :=
  (∀ (imm : BitVec 12) (rs1 rd : RegIdx), decode (imm ++ rs1 ++ 0b000#3 ++ rd ++ 0b1100111#7) = .ok (.jalr rd rs1 imm)) ∧
  (∀ (imm : BitVec 12) (rs1 rd : RegIdx) (f3 : BitVec 3), f3 ≠ 0b000#3 →
    decode (imm ++ rs1 ++ f3 ++ rd ++ 0b1100111#7) = .error .unknownFunct3) ∧
  (∀ (rd rs1 : RegIdx) (imm : BitVec 12) (s : State),
    ∃ t, exec (.jalr rd rs1 imm) s = .next t ∧
      WritesRegister rd (s.pc + 4#32)
        (if s.config.jalrClearsBit0 = true then (s.reg rs1 + imm.signExtend 32) &&& 0xFFFFFFFE#32
          else s.reg rs1 + imm.signExtend 32) s t ∧
      BadPcFaultsAtFetch t)

/-- BEQ and BNE (R119, R120). A bad target faults at the next fetch, not at the branch. -/
def Obligations.BeqAndBneBranchOnEquality : Prop :=
  (∀ (i12 i11 : BitVec 1) (i10_5 : BitVec 6) (i4_1 : BitVec 4) (rs2 rs1 : RegIdx),
    decode (i12 ++ i10_5 ++ rs2 ++ rs1 ++ 0b000#3 ++ i4_1 ++ i11 ++ 0b1100011#7) =
      .ok (.beq rs1 rs2 (i12 ++ i11 ++ i10_5 ++ i4_1 ++ 0#1)) ∧
    decode (i12 ++ i10_5 ++ rs2 ++ rs1 ++ 0b001#3 ++ i4_1 ++ i11 ++ 0b1100011#7) =
      .ok (.bne rs1 rs2 (i12 ++ i11 ++ i10_5 ++ i4_1 ++ 0#1))) ∧
  (∀ (rs1 rs2 : RegIdx) (offset : BitVec 13) (s : State),
    (∃ t, exec (.beq rs1 rs2 offset) s = .next t ∧
      WritesOnlyPc (if s.reg rs1 = s.reg rs2 then s.pc + offset.signExtend 32 else s.pc + 4#32) s t ∧
      BadPcFaultsAtFetch t) ∧
    (∃ t, exec (.bne rs1 rs2 offset) s = .next t ∧
      WritesOnlyPc (if s.reg rs1 ≠ s.reg rs2 then s.pc + offset.signExtend 32 else s.pc + 4#32) s t ∧
      BadPcFaultsAtFetch t))

/-- BLT and BGE, signed (R121, R122). A bad target faults at the next fetch, not at the branch. -/
def Obligations.BltAndBgeBranchOnSignedOrder : Prop :=
  (∀ (i12 i11 : BitVec 1) (i10_5 : BitVec 6) (i4_1 : BitVec 4) (rs2 rs1 : RegIdx),
    decode (i12 ++ i10_5 ++ rs2 ++ rs1 ++ 0b100#3 ++ i4_1 ++ i11 ++ 0b1100011#7) =
      .ok (.blt rs1 rs2 (i12 ++ i11 ++ i10_5 ++ i4_1 ++ 0#1)) ∧
    decode (i12 ++ i10_5 ++ rs2 ++ rs1 ++ 0b101#3 ++ i4_1 ++ i11 ++ 0b1100011#7) =
      .ok (.bge rs1 rs2 (i12 ++ i11 ++ i10_5 ++ i4_1 ++ 0#1))) ∧
  (∀ (rs1 rs2 : RegIdx) (offset : BitVec 13) (s : State),
    (∃ t, exec (.blt rs1 rs2 offset) s = .next t ∧
      WritesOnlyPc (if (s.reg rs1).toInt < (s.reg rs2).toInt then s.pc + offset.signExtend 32 else s.pc + 4#32) s t ∧
      BadPcFaultsAtFetch t) ∧
    (∃ t, exec (.bge rs1 rs2 offset) s = .next t ∧
      WritesOnlyPc (if (s.reg rs1).toInt ≥ (s.reg rs2).toInt then s.pc + offset.signExtend 32 else s.pc + 4#32) s t ∧
      BadPcFaultsAtFetch t))

/-- BLTU and BGEU, unsigned (R123, R124). A bad target faults at the next fetch, not at the branch. -/
def Obligations.BltuAndBgeuBranchOnUnsignedOrder : Prop :=
  (∀ (i12 i11 : BitVec 1) (i10_5 : BitVec 6) (i4_1 : BitVec 4) (rs2 rs1 : RegIdx),
    decode (i12 ++ i10_5 ++ rs2 ++ rs1 ++ 0b110#3 ++ i4_1 ++ i11 ++ 0b1100011#7) =
      .ok (.bltu rs1 rs2 (i12 ++ i11 ++ i10_5 ++ i4_1 ++ 0#1)) ∧
    decode (i12 ++ i10_5 ++ rs2 ++ rs1 ++ 0b111#3 ++ i4_1 ++ i11 ++ 0b1100011#7) =
      .ok (.bgeu rs1 rs2 (i12 ++ i11 ++ i10_5 ++ i4_1 ++ 0#1))) ∧
  (∀ (rs1 rs2 : RegIdx) (offset : BitVec 13) (s : State),
    (∃ t, exec (.bltu rs1 rs2 offset) s = .next t ∧
      WritesOnlyPc (if (s.reg rs1).toNat < (s.reg rs2).toNat then s.pc + offset.signExtend 32 else s.pc + 4#32) s t ∧
      BadPcFaultsAtFetch t) ∧
    (∃ t, exec (.bgeu rs1 rs2 offset) s = .next t ∧
      WritesOnlyPc (if (s.reg rs1).toNat ≥ (s.reg rs2).toNat then s.pc + offset.signExtend 32 else s.pc + 4#32) s t ∧
      BadPcFaultsAtFetch t))

/-! ## Loads and stores -/

/-- LB and LBU (R126, R129). A load of x0 still makes its access. -/
def Obligations.ByteLoadsExtendOrFault : Prop :=
  ∀ (imm : BitVec 12) (rs1 rd : RegIdx) (s : State),
    decode (imm ++ rs1 ++ 0b000#3 ++ rd ++ 0b0000011#7) = .ok (.lb rd rs1 imm) ∧
    decode (imm ++ rs1 ++ 0b100#3 ++ rd ++ 0b0000011#7) = .ok (.lbu rd rs1 imm) ∧
    (Mapped s (s.reg rs1 + imm.signExtend 32) 1 →
      (∃ t, exec (.lb rd rs1 imm) s = .next t ∧
        WritesRegister rd ((byteAt s (s.reg rs1 + imm.signExtend 32).toNat).signExtend 32) (s.pc + 4#32) s t) ∧
      (∃ t, exec (.lbu rd rs1 imm) s = .next t ∧
        WritesRegister rd ((byteAt s (s.reg rs1 + imm.signExtend 32).toNat).setWidth 32) (s.pc + 4#32) s t)) ∧
    (¬ Mapped s (s.reg rs1 + imm.signExtend 32) 1 →
      (∃ t, exec (.lb rd rs1 imm) s = .next t ∧
        HaltsWith (.fault .outOfBounds s.pc (some (imm ++ rs1 ++ 0b000#3 ++ rd ++ 0b0000011#7))) s t) ∧
      (∃ t, exec (.lbu rd rs1 imm) s = .next t ∧
        HaltsWith (.fault .outOfBounds s.pc (some (imm ++ rs1 ++ 0b100#3 ++ rd ++ 0b0000011#7))) s t))

/-- LH and LHU (R127, R130), at every address, odd ones too: the byte at the lower address is bits [7:0]. -/
def Obligations.HalfwordLoadsExtendOrFault : Prop :=
  ∀ (imm : BitVec 12) (rs1 rd : RegIdx) (s : State),
    decode (imm ++ rs1 ++ 0b001#3 ++ rd ++ 0b0000011#7) = .ok (.lh rd rs1 imm) ∧
    decode (imm ++ rs1 ++ 0b101#3 ++ rd ++ 0b0000011#7) = .ok (.lhu rd rs1 imm) ∧
    (Mapped s (s.reg rs1 + imm.signExtend 32) 2 →
      (∃ t, exec (.lh rd rs1 imm) s = .next t ∧
        WritesRegister rd ((byteAt s ((s.reg rs1 + imm.signExtend 32).toNat + 1) ++
          byteAt s (s.reg rs1 + imm.signExtend 32).toNat).signExtend 32) (s.pc + 4#32) s t) ∧
      (∃ t, exec (.lhu rd rs1 imm) s = .next t ∧
        WritesRegister rd ((byteAt s ((s.reg rs1 + imm.signExtend 32).toNat + 1) ++
          byteAt s (s.reg rs1 + imm.signExtend 32).toNat).setWidth 32) (s.pc + 4#32) s t)) ∧
    (¬ Mapped s (s.reg rs1 + imm.signExtend 32) 2 →
      (∃ t, exec (.lh rd rs1 imm) s = .next t ∧
        HaltsWith (.fault .outOfBounds s.pc (some (imm ++ rs1 ++ 0b001#3 ++ rd ++ 0b0000011#7))) s t) ∧
      (∃ t, exec (.lhu rd rs1 imm) s = .next t ∧
        HaltsWith (.fault .outOfBounds s.pc (some (imm ++ rs1 ++ 0b101#3 ++ rd ++ 0b0000011#7))) s t))

/-- LW (R128): the little-endian word, OutOfBounds, or else Unaligned. -/
def Obligations.LwLoadsTheWordOrFaults : Prop :=
  ∀ (imm : BitVec 12) (rs1 rd : RegIdx) (s : State),
    decode (imm ++ rs1 ++ 0b010#3 ++ rd ++ 0b0000011#7) = .ok (.lw rd rs1 imm) ∧
    (Mapped s (s.reg rs1 + imm.signExtend 32) 4 → WordAligned (s.reg rs1 + imm.signExtend 32) →
      ∃ t, exec (.lw rd rs1 imm) s = .next t ∧
        WritesRegister rd (wordAt s (s.reg rs1 + imm.signExtend 32).toNat) (s.pc + 4#32) s t) ∧
    (¬ Mapped s (s.reg rs1 + imm.signExtend 32) 4 →
      ∃ t, exec (.lw rd rs1 imm) s = .next t ∧
        HaltsWith (.fault .outOfBounds s.pc (some (imm ++ rs1 ++ 0b010#3 ++ rd ++ 0b0000011#7))) s t) ∧
    (Mapped s (s.reg rs1 + imm.signExtend 32) 4 → ¬ WordAligned (s.reg rs1 + imm.signExtend 32) →
      ∃ t, exec (.lw rd rs1 imm) s = .next t ∧
        HaltsWith (.fault .unaligned s.pc (some (imm ++ rs1 ++ 0b010#3 ++ rd ++ 0b0000011#7))) s t)

/-- SB (R132): one byte changes, or OutOfBounds. -/
def Obligations.SbStoresOneByteOrFaults : Prop :=
  ∀ (imm : BitVec 12) (rs2 rs1 : RegIdx) (s : State), s.mem.wf →
    decode (imm.extractLsb' 5 7 ++ rs2 ++ rs1 ++ 0b000#3 ++ imm.extractLsb' 0 5 ++ 0b0100011#7) = .ok (.sb rs1 rs2 imm) ∧
    (Mapped s (s.reg rs1 + imm.signExtend 32) 1 →
      ∃ t, exec (.sb rs1 rs2 imm) s = .next t ∧ StoresBytes (s.reg rs1 + imm.signExtend 32) 1 (s.reg rs2) s t) ∧
    (¬ Mapped s (s.reg rs1 + imm.signExtend 32) 1 →
      ∃ t, exec (.sb rs1 rs2 imm) s = .next t ∧
        HaltsWith (.fault .outOfBounds s.pc (some (imm.extractLsb' 5 7 ++ rs2 ++ rs1 ++ 0b000#3 ++ imm.extractLsb' 0 5 ++ 0b0100011#7))) s t)

/-- SH (R133), at every address, odd ones too: two bytes change, or OutOfBounds and neither. -/
def Obligations.ShStoresTwoBytesOrFaults : Prop :=
  ∀ (imm : BitVec 12) (rs2 rs1 : RegIdx) (s : State), s.mem.wf →
    decode (imm.extractLsb' 5 7 ++ rs2 ++ rs1 ++ 0b001#3 ++ imm.extractLsb' 0 5 ++ 0b0100011#7) = .ok (.sh rs1 rs2 imm) ∧
    (Mapped s (s.reg rs1 + imm.signExtend 32) 2 →
      ∃ t, exec (.sh rs1 rs2 imm) s = .next t ∧ StoresBytes (s.reg rs1 + imm.signExtend 32) 2 (s.reg rs2) s t) ∧
    (¬ Mapped s (s.reg rs1 + imm.signExtend 32) 2 →
      ∃ t, exec (.sh rs1 rs2 imm) s = .next t ∧
        HaltsWith (.fault .outOfBounds s.pc (some (imm.extractLsb' 5 7 ++ rs2 ++ rs1 ++ 0b001#3 ++ imm.extractLsb' 0 5 ++ 0b0100011#7))) s t)

/-- SW (R134): four bytes change, or OutOfBounds, or else Unaligned, and nothing is written. -/
def Obligations.SwStoresFourBytesOrFaults : Prop :=
  ∀ (imm : BitVec 12) (rs2 rs1 : RegIdx) (s : State), s.mem.wf →
    decode (imm.extractLsb' 5 7 ++ rs2 ++ rs1 ++ 0b010#3 ++ imm.extractLsb' 0 5 ++ 0b0100011#7) = .ok (.sw rs1 rs2 imm) ∧
    (Mapped s (s.reg rs1 + imm.signExtend 32) 4 → WordAligned (s.reg rs1 + imm.signExtend 32) →
      ∃ t, exec (.sw rs1 rs2 imm) s = .next t ∧ StoresBytes (s.reg rs1 + imm.signExtend 32) 4 (s.reg rs2) s t) ∧
    (¬ Mapped s (s.reg rs1 + imm.signExtend 32) 4 →
      ∃ t, exec (.sw rs1 rs2 imm) s = .next t ∧
        HaltsWith (.fault .outOfBounds s.pc (some (imm.extractLsb' 5 7 ++ rs2 ++ rs1 ++ 0b010#3 ++ imm.extractLsb' 0 5 ++ 0b0100011#7))) s t) ∧
    (Mapped s (s.reg rs1 + imm.signExtend 32) 4 → ¬ WordAligned (s.reg rs1 + imm.signExtend 32) →
      ∃ t, exec (.sw rs1 rs2 imm) s = .next t ∧
        HaltsWith (.fault .unaligned s.pc (some (imm.extractLsb' 5 7 ++ rs2 ++ rs1 ++ 0b010#3 ++ imm.extractLsb' 0 5 ++ 0b0100011#7))) s t)

/-! ## Register-immediate and register-register instructions -/

/-- ADDI, XORI, ORI and ANDI (R137, R140, R141, R142). -/
def Obligations.AddiXoriOriAndiWriteTheResult : Prop :=
  ∀ (imm : BitVec 12) (rs1 rd : RegIdx) (s : State),
    decode (imm ++ rs1 ++ 0b000#3 ++ rd ++ 0b0010011#7) = .ok (.addi rd rs1 imm) ∧
    decode (imm ++ rs1 ++ 0b100#3 ++ rd ++ 0b0010011#7) = .ok (.xori rd rs1 imm) ∧
    decode (imm ++ rs1 ++ 0b110#3 ++ rd ++ 0b0010011#7) = .ok (.ori rd rs1 imm) ∧
    decode (imm ++ rs1 ++ 0b111#3 ++ rd ++ 0b0010011#7) = .ok (.andi rd rs1 imm) ∧
    (∃ t, exec (.addi rd rs1 imm) s = .next t ∧
      WritesRegister rd (s.reg rs1 + imm.signExtend 32) (s.pc + 4#32) s t) ∧
    (∃ t, exec (.xori rd rs1 imm) s = .next t ∧
      WritesRegister rd (s.reg rs1 ^^^ imm.signExtend 32) (s.pc + 4#32) s t) ∧
    (∃ t, exec (.ori rd rs1 imm) s = .next t ∧
      WritesRegister rd (s.reg rs1 ||| imm.signExtend 32) (s.pc + 4#32) s t) ∧
    (∃ t, exec (.andi rd rs1 imm) s = .next t ∧
      WritesRegister rd (s.reg rs1 &&& imm.signExtend 32) (s.pc + 4#32) s t)

/-- SLTI and SLTIU (R138, R139): SLTIU extends the immediate as signed and then compares unsigned. -/
def Obligations.SltiSltiuWriteTheComparison : Prop :=
  ∀ (imm : BitVec 12) (rs1 rd : RegIdx) (s : State),
    decode (imm ++ rs1 ++ 0b010#3 ++ rd ++ 0b0010011#7) = .ok (.slti rd rs1 imm) ∧
    decode (imm ++ rs1 ++ 0b011#3 ++ rd ++ 0b0010011#7) = .ok (.sltiu rd rs1 imm) ∧
    (∃ t, exec (.slti rd rs1 imm) s = .next t ∧
      WritesRegister rd (if (s.reg rs1).toInt < imm.toInt then 1#32 else 0#32) (s.pc + 4#32) s t) ∧
    (∃ t, exec (.sltiu rd rs1 imm) s = .next t ∧
      WritesRegister rd (if (s.reg rs1).toNat < (imm.signExtend 32).toNat then 1#32 else 0#32) (s.pc + 4#32) s t)

/-- SLLI, SRLI and SRAI (R143, R144, R145); another funct7 is UnknownFunct7. -/
def Obligations.ShiftImmediatesWriteTheShiftedValue : Prop :=
  (∀ (shamt : BitVec 5) (rs1 rd : RegIdx) (s : State),
    decode (0b0000000#7 ++ shamt ++ rs1 ++ 0b001#3 ++ rd ++ 0b0010011#7) = .ok (.slli rd rs1 shamt) ∧
    decode (0b0000000#7 ++ shamt ++ rs1 ++ 0b101#3 ++ rd ++ 0b0010011#7) = .ok (.srli rd rs1 shamt) ∧
    decode (0b0100000#7 ++ shamt ++ rs1 ++ 0b101#3 ++ rd ++ 0b0010011#7) = .ok (.srai rd rs1 shamt) ∧
    (∃ t, exec (.slli rd rs1 shamt) s = .next t ∧
      WritesRegister rd (s.reg rs1 <<< shamt.toNat) (s.pc + 4#32) s t) ∧
    (∃ t, exec (.srli rd rs1 shamt) s = .next t ∧
      WritesRegister rd (s.reg rs1 >>> shamt.toNat) (s.pc + 4#32) s t) ∧
    (∃ t, exec (.srai rd rs1 shamt) s = .next t ∧
      WritesRegister rd ((s.reg rs1).sshiftRight shamt.toNat) (s.pc + 4#32) s t)) ∧
  (∀ (f7 : BitVec 7) (shamt : BitVec 5) (rs1 rd : RegIdx), f7 ≠ 0b0000000#7 →
    decode (f7 ++ shamt ++ rs1 ++ 0b001#3 ++ rd ++ 0b0010011#7) = .error .unknownFunct7 ∧
    (f7 ≠ 0b0100000#7 → decode (f7 ++ shamt ++ rs1 ++ 0b101#3 ++ rd ++ 0b0010011#7) = .error .unknownFunct7))

/-- ADD and SUB (R146, R147): wrapping, no fault on overflow. -/
def Obligations.AddSubWriteTheWrappedResult : Prop :=
  ∀ (rs2 rs1 rd : RegIdx) (s : State),
    decode (0b0000000#7 ++ rs2 ++ rs1 ++ 0b000#3 ++ rd ++ 0b0110011#7) = .ok (.add rd rs1 rs2) ∧
    decode (0b0100000#7 ++ rs2 ++ rs1 ++ 0b000#3 ++ rd ++ 0b0110011#7) = .ok (.sub rd rs1 rs2) ∧
    (∃ t, exec (.add rd rs1 rs2) s = .next t ∧
      WritesRegister rd (BitVec.ofNat 32 ((s.reg rs1).toNat + (s.reg rs2).toNat)) (s.pc + 4#32) s t) ∧
    (∃ t, exec (.sub rd rs1 rs2) s = .next t ∧
      WritesRegister rd (BitVec.ofInt 32 ((s.reg rs1).toNat - (s.reg rs2).toNat)) (s.pc + 4#32) s t)

/-- XOR, OR and AND (R151, R154, R155). -/
def Obligations.XorOrAndWriteTheBitwiseResult : Prop :=
  ∀ (rs2 rs1 rd : RegIdx) (s : State),
    decode (0b0000000#7 ++ rs2 ++ rs1 ++ 0b100#3 ++ rd ++ 0b0110011#7) = .ok (.xor rd rs1 rs2) ∧
    decode (0b0000000#7 ++ rs2 ++ rs1 ++ 0b110#3 ++ rd ++ 0b0110011#7) = .ok (.or rd rs1 rs2) ∧
    decode (0b0000000#7 ++ rs2 ++ rs1 ++ 0b111#3 ++ rd ++ 0b0110011#7) = .ok (.and rd rs1 rs2) ∧
    (∃ t, exec (.xor rd rs1 rs2) s = .next t ∧ WritesRegister rd (s.reg rs1 ^^^ s.reg rs2) (s.pc + 4#32) s t) ∧
    (∃ t, exec (.or rd rs1 rs2) s = .next t ∧ WritesRegister rd (s.reg rs1 ||| s.reg rs2) (s.pc + 4#32) s t) ∧
    (∃ t, exec (.and rd rs1 rs2) s = .next t ∧ WritesRegister rd (s.reg rs1 &&& s.reg rs2) (s.pc + 4#32) s t)

/-- SLT and SLTU (R149, R150). -/
def Obligations.SltSltuWriteTheComparison : Prop :=
  ∀ (rs2 rs1 rd : RegIdx) (s : State),
    decode (0b0000000#7 ++ rs2 ++ rs1 ++ 0b010#3 ++ rd ++ 0b0110011#7) = .ok (.slt rd rs1 rs2) ∧
    decode (0b0000000#7 ++ rs2 ++ rs1 ++ 0b011#3 ++ rd ++ 0b0110011#7) = .ok (.sltu rd rs1 rs2) ∧
    (∃ t, exec (.slt rd rs1 rs2) s = .next t ∧
      WritesRegister rd (if (s.reg rs1).toInt < (s.reg rs2).toInt then 1#32 else 0#32) (s.pc + 4#32) s t) ∧
    (∃ t, exec (.sltu rd rs1 rs2) s = .next t ∧
      WritesRegister rd (if (s.reg rs1).toNat < (s.reg rs2).toNat then 1#32 else 0#32) (s.pc + 4#32) s t)

/-- SLL, SRL and SRA (R148, R152, R153): only the low 5 bits of x[rs2] count. -/
def Obligations.RegisterShiftsUseTheLowFiveBits : Prop :=
  ∀ (rs2 rs1 rd : RegIdx) (s : State),
    decode (0b0000000#7 ++ rs2 ++ rs1 ++ 0b001#3 ++ rd ++ 0b0110011#7) = .ok (.sll rd rs1 rs2) ∧
    decode (0b0000000#7 ++ rs2 ++ rs1 ++ 0b101#3 ++ rd ++ 0b0110011#7) = .ok (.srl rd rs1 rs2) ∧
    decode (0b0100000#7 ++ rs2 ++ rs1 ++ 0b101#3 ++ rd ++ 0b0110011#7) = .ok (.sra rd rs1 rs2) ∧
    (∃ t, exec (.sll rd rs1 rs2) s = .next t ∧
      WritesRegister rd (s.reg rs1 <<< ((s.reg rs2).toNat % 32)) (s.pc + 4#32) s t) ∧
    (∃ t, exec (.srl rd rs1 rs2) s = .next t ∧
      WritesRegister rd (s.reg rs1 >>> ((s.reg rs2).toNat % 32)) (s.pc + 4#32) s t) ∧
    (∃ t, exec (.sra rd rs1 rs2) s = .next t ∧
      WritesRegister rd ((s.reg rs1).sshiftRight ((s.reg rs2).toNat % 32)) (s.pc + 4#32) s t)

/-! ## MISC-FENCE and SYSTEM -/

/-- FENCE and FENCE.I (R158, R159): no-ops for every value of their fields. -/
def Obligations.FencesOnlyAdvanceThePc : Prop :=
  ∀ (fm pred succ : BitVec 4) (imm : BitVec 12) (rs1 rd : RegIdx) (s : State),
    decode (fm ++ pred ++ succ ++ rs1 ++ 0b000#3 ++ rd ++ 0b0001111#7) = .ok (.fence fm pred succ rs1 rd) ∧
    decode (imm ++ rs1 ++ 0b001#3 ++ rd ++ 0b0001111#7) = .ok (.fenceI imm rs1 rd) ∧
    (∃ t, exec (.fence fm pred succ rs1 rd) s = .next t ∧ WritesOnlyPc (s.pc + 4#32) s t) ∧
    (∃ t, exec (.fenceI imm rs1 rd) s = .next t ∧ WritesOnlyPc (s.pc + 4#32) s t)

/-- ECALL and EBREAK (R160, R161): exactly these words, no trap, only pc + 4; and if the word is the sentinel, the step
halts with success instead. -/
def Obligations.EcallEbreakOnlyAdvanceThePc : Prop :=
  (∀ w : Word, (decode w = .ok .ecall ↔ w = 0x00000073#32) ∧ (decode w = .ok .ebreak ↔ w = 0x00100073#32)) ∧
  (∀ s : State,
    (∃ t, exec .ecall s = .next t ∧ WritesOnlyPc (s.pc + 4#32) s t) ∧
    (∃ t, exec .ebreak s = .next t ∧ WritesOnlyPc (s.pc + 4#32) s t)) ∧
  (∀ s : State, Runnable s → Mapped s s.pc 4 → WordAligned s.pc →
    (wordAt s s.pc.toNat = 0x00000073#32 ∨ wordAt s s.pc.toNat = 0x00100073#32) →
    wordAt s s.pc.toNat = s.config.sentinel →
    ∃ t, step s = .next t ∧ t.outcome = .halt .success ∧ t.pc = s.pc)

/-- The CSR instructions (R163 to R169): for every csr, rs1 or uimm and rd, no register is read or written, not even rd, no
memory is touched, and the pc advances by 4. -/
def Obligations.CsrInstructionsOnlyAdvanceThePc : Prop :=
  ∀ (csr : BitVec 12) (rs1 rd : RegIdx) (uimm : BitVec 5) (s : State),
    decode (csr ++ rs1 ++ 0b001#3 ++ rd ++ 0b1110011#7) = .ok (.csrrw rd rs1 csr) ∧
    decode (csr ++ rs1 ++ 0b010#3 ++ rd ++ 0b1110011#7) = .ok (.csrrs rd rs1 csr) ∧
    decode (csr ++ rs1 ++ 0b011#3 ++ rd ++ 0b1110011#7) = .ok (.csrrc rd rs1 csr) ∧
    decode (csr ++ uimm ++ 0b101#3 ++ rd ++ 0b1110011#7) = .ok (.csrrwi rd uimm csr) ∧
    decode (csr ++ uimm ++ 0b110#3 ++ rd ++ 0b1110011#7) = .ok (.csrrsi rd uimm csr) ∧
    decode (csr ++ uimm ++ 0b111#3 ++ rd ++ 0b1110011#7) = .ok (.csrrci rd uimm csr) ∧
    (∃ t, exec (.csrrw rd rs1 csr) s = .next t ∧ WritesOnlyPc (s.pc + 4#32) s t) ∧
    (∃ t, exec (.csrrs rd rs1 csr) s = .next t ∧ WritesOnlyPc (s.pc + 4#32) s t) ∧
    (∃ t, exec (.csrrc rd rs1 csr) s = .next t ∧ WritesOnlyPc (s.pc + 4#32) s t) ∧
    (∃ t, exec (.csrrwi rd uimm csr) s = .next t ∧ WritesOnlyPc (s.pc + 4#32) s t) ∧
    (∃ t, exec (.csrrsi rd uimm csr) s = .next t ∧ WritesOnlyPc (s.pc + 4#32) s t) ∧
    (∃ t, exec (.csrrci rd uimm csr) s = .next t ∧ WritesOnlyPc (s.pc + 4#32) s t)

/-! ## The machine as a whole -/

/-- The meanings, instruction by instruction, and the datapath driven by the dispatcher's table of control signals (R90,
R96, R101, R103) are one function. The word a data fault records is `encode i` on both sides, the model's reading
(assumption 8, DEDUCED). -/
def Obligations.ExecIsTheDispatchersDatapath : Prop :=
  ∀ (i : Instr) (s : State), exec i s = .next (datapath i s)

/-- Every step keeps the invariant: legal configuration, canonical memory inside the region, x0 = 0, and a halt that recurs
identically on retry (R26, R43, R106, R175). -/
def Obligations.StepKeepsTheInvariant : Prop :=
  ∀ s t : State, Legal s → step s = .next t → Legal t

/-- The reset state meets the invariant. -/
def Obligations.ResetStateMeetsTheInvariant : Prop := Legal State.reset

/-- The host interface establishes and keeps the invariant (R191, R49, R190). -/
def Obligations.HostInterfaceKeepsTheInvariant : Prop :=
  (∀ c regs pc s, create c regs pc = .next s → Legal s) ∧
  (∀ data address s t, Legal s → loadSegment data address s = .next t → Legal t) ∧
  (∀ entry draw s, Legal s → Legal (resetTo entry draw s))

/-- After a step that continues: the word at the pc decoded to an instruction `i`, x0 = 0, the core is running, no register
but the destination of `i` has changed, and no byte of memory but, when `i` is a store, the at most four bytes of its own
access. After a step that halts: no register, no byte and not the pc (R108, points 1, 3 and 4 and its last sentence). -/
def Obligations.StepChangesOneRegisterAndFourBytesAtMost : Prop :=
  ∀ s t : State, s.mem.wf → step s = .next t →
    (t.outcome = .continue →
      t.reg 0#5 = 0#32 ∧ t.status = .running ∧
      ∃ i, decode (wordAt s s.pc.toNat) = .ok i ∧
        (∀ r, destOf i ≠ some r → t.reg r = s.reg r) ∧
        (isStore i = false → SameMemory s t) ∧
        (isStore i = true → ∃ w, accessWidth i = some w ∧ w.bytes ≤ 4 ∧
          ∀ b, b < (accessAddr i s).toNat ∨ (accessAddr i s).toNat + w.bytes ≤ b → byteAt t b = byteAt s b)) ∧
    (∀ r, t.outcome = .halt r → t.status = .halted r ∧ SameRegs s t ∧ SameMemory s t ∧ t.pc = s.pc)

/-- `run(n)` always answers after a reset; the state it leaves is that of n steps, because a halt is sticky; and its result
is budget_exceeded when n = 0 or the core still runs, and else the halt (R197, R198). -/
def Obligations.RunIsIteratedStep : Prop :=
  ∀ (n : Nat) (s : State), s.lifecycle ≠ .created →
    ∃ t res, run n s = .next (t, res) ∧ core.run n s = .next t ∧
      res = if n = 0 then .budgetExceeded
        else match t.outcome with
          | .continue => .budgetExceeded
          | .halt r => r.runResult

/-- A run that exceeds its budget can be continued: n more steps from where m steps ended are m + n steps (R197). -/
def Obligations.RunContinuesAfterBudgetExceeded : Prop :=
  ∀ (m n : Nat) (s t : State), run m s = .next (t, .budgetExceeded) → run (m + n) s = run n t
end

