-- ==== Sys2Proof/Laws/Encoding.lean ====
section
/-! SUPPORT. The fields of an encoded word (R69 to R77): each field of a format reads back what the encoder put there, and a
word is the format of its own fields. -/

namespace Sys2Proof

/-! ## rType -/

section RType
variable (funct7 : BitVec 7) (rs2 : RegIdx) (rs1 : RegIdx) (funct3 : BitVec 3) (rd : RegIdx) (opcode : BitVec 7)

@[simp] theorem funct7Of_rType : funct7Of (rType funct7 rs2 rs1 funct3 rd opcode) = funct7 := by
  apply BitVec.eq_of_getLsbD_eq
  intro i hi
  simp only [funct7Of, rType, BitVec.getLsbD_extractLsb', BitVec.getLsbD_append]
  interval_cases i <;> simp
@[simp] theorem rs2Of_rType : rs2Of (rType funct7 rs2 rs1 funct3 rd opcode) = rs2 := by
  apply BitVec.eq_of_getLsbD_eq
  intro i hi
  simp only [rs2Of, rType, BitVec.getLsbD_extractLsb', BitVec.getLsbD_append]
  interval_cases i <;> simp
@[simp] theorem rs1Of_rType : rs1Of (rType funct7 rs2 rs1 funct3 rd opcode) = rs1 := by
  apply BitVec.eq_of_getLsbD_eq
  intro i hi
  simp only [rs1Of, rType, BitVec.getLsbD_extractLsb', BitVec.getLsbD_append]
  interval_cases i <;> simp
@[simp] theorem funct3Of_rType : funct3Of (rType funct7 rs2 rs1 funct3 rd opcode) = funct3 := by
  apply BitVec.eq_of_getLsbD_eq
  intro i hi
  simp only [funct3Of, rType, BitVec.getLsbD_extractLsb', BitVec.getLsbD_append]
  interval_cases i <;> simp
@[simp] theorem rdOf_rType : rdOf (rType funct7 rs2 rs1 funct3 rd opcode) = rd := by
  apply BitVec.eq_of_getLsbD_eq
  intro i hi
  simp only [rdOf, rType, BitVec.getLsbD_extractLsb', BitVec.getLsbD_append]
  interval_cases i <;> simp
@[simp] theorem opcodeOf_rType : opcodeOf (rType funct7 rs2 rs1 funct3 rd opcode) = opcode := by
  apply BitVec.eq_of_getLsbD_eq
  intro i hi
  simp only [opcodeOf, rType, BitVec.getLsbD_extractLsb', BitVec.getLsbD_append]
  interval_cases i <;> simp

end RType

/-! ## iType -/

section IType
variable (imm : BitVec 12) (rs1 : RegIdx) (funct3 : BitVec 3) (rd : RegIdx) (opcode : BitVec 7)

@[simp] theorem immIOf_iType : immIOf (iType imm rs1 funct3 rd opcode) = imm := by
  apply BitVec.eq_of_getLsbD_eq
  intro i hi
  simp only [immIOf, iType, BitVec.getLsbD_extractLsb', BitVec.getLsbD_append]
  interval_cases i <;> simp
@[simp] theorem rs1Of_iType : rs1Of (iType imm rs1 funct3 rd opcode) = rs1 := by
  apply BitVec.eq_of_getLsbD_eq
  intro i hi
  simp only [rs1Of, iType, BitVec.getLsbD_extractLsb', BitVec.getLsbD_append]
  interval_cases i <;> simp
@[simp] theorem funct3Of_iType : funct3Of (iType imm rs1 funct3 rd opcode) = funct3 := by
  apply BitVec.eq_of_getLsbD_eq
  intro i hi
  simp only [funct3Of, iType, BitVec.getLsbD_extractLsb', BitVec.getLsbD_append]
  interval_cases i <;> simp
@[simp] theorem rdOf_iType : rdOf (iType imm rs1 funct3 rd opcode) = rd := by
  apply BitVec.eq_of_getLsbD_eq
  intro i hi
  simp only [rdOf, iType, BitVec.getLsbD_extractLsb', BitVec.getLsbD_append]
  interval_cases i <;> simp
@[simp] theorem opcodeOf_iType : opcodeOf (iType imm rs1 funct3 rd opcode) = opcode := by
  apply BitVec.eq_of_getLsbD_eq
  intro i hi
  simp only [opcodeOf, iType, BitVec.getLsbD_extractLsb', BitVec.getLsbD_append]
  interval_cases i <;> simp

end IType

/-! ## sType -/

section SType
variable (imm : BitVec 12) (rs2 : RegIdx) (rs1 : RegIdx) (funct3 : BitVec 3) (opcode : BitVec 7)

@[simp] theorem immSOf_sType : immSOf (sType imm rs2 rs1 funct3 opcode) = imm := by
  apply BitVec.eq_of_getLsbD_eq
  intro i hi
  simp only [immSOf, sType, BitVec.getLsbD_extractLsb', BitVec.getLsbD_append]
  interval_cases i <;> simp
@[simp] theorem rs2Of_sType : rs2Of (sType imm rs2 rs1 funct3 opcode) = rs2 := by
  apply BitVec.eq_of_getLsbD_eq
  intro i hi
  simp only [rs2Of, sType, BitVec.getLsbD_extractLsb', BitVec.getLsbD_append]
  interval_cases i <;> simp
@[simp] theorem rs1Of_sType : rs1Of (sType imm rs2 rs1 funct3 opcode) = rs1 := by
  apply BitVec.eq_of_getLsbD_eq
  intro i hi
  simp only [rs1Of, sType, BitVec.getLsbD_extractLsb', BitVec.getLsbD_append]
  interval_cases i <;> simp
@[simp] theorem funct3Of_sType : funct3Of (sType imm rs2 rs1 funct3 opcode) = funct3 := by
  apply BitVec.eq_of_getLsbD_eq
  intro i hi
  simp only [funct3Of, sType, BitVec.getLsbD_extractLsb', BitVec.getLsbD_append]
  interval_cases i <;> simp
@[simp] theorem opcodeOf_sType : opcodeOf (sType imm rs2 rs1 funct3 opcode) = opcode := by
  apply BitVec.eq_of_getLsbD_eq
  intro i hi
  simp only [opcodeOf, sType, BitVec.getLsbD_extractLsb', BitVec.getLsbD_append]
  interval_cases i <;> simp

end SType

/-! ## bType -/

section BType
variable (offset : BitVec 13) (rs2 : RegIdx) (rs1 : RegIdx) (funct3 : BitVec 3) (opcode : BitVec 7)

@[simp] theorem rs2Of_bType : rs2Of (bType offset rs2 rs1 funct3 opcode) = rs2 := by
  apply BitVec.eq_of_getLsbD_eq
  intro i hi
  simp only [rs2Of, bType, BitVec.getLsbD_extractLsb', BitVec.getLsbD_append]
  interval_cases i <;> simp
@[simp] theorem rs1Of_bType : rs1Of (bType offset rs2 rs1 funct3 opcode) = rs1 := by
  apply BitVec.eq_of_getLsbD_eq
  intro i hi
  simp only [rs1Of, bType, BitVec.getLsbD_extractLsb', BitVec.getLsbD_append]
  interval_cases i <;> simp
@[simp] theorem funct3Of_bType : funct3Of (bType offset rs2 rs1 funct3 opcode) = funct3 := by
  apply BitVec.eq_of_getLsbD_eq
  intro i hi
  simp only [funct3Of, bType, BitVec.getLsbD_extractLsb', BitVec.getLsbD_append]
  interval_cases i <;> simp
@[simp] theorem opcodeOf_bType : opcodeOf (bType offset rs2 rs1 funct3 opcode) = opcode := by
  apply BitVec.eq_of_getLsbD_eq
  intro i hi
  simp only [opcodeOf, bType, BitVec.getLsbD_extractLsb', BitVec.getLsbD_append]
  interval_cases i <;> simp

/-- The offset reads back when its bit 0 is 0, the bit that is not encoded. -/
theorem immBOf_bType (h : evenOffset offset = true) : immBOf (bType offset rs2 rs1 funct3 opcode) = offset := by
  have h0 : offset.getLsbD 0 = false := by simpa [evenOffset] using h
  apply BitVec.eq_of_getLsbD_eq
  intro i hi
  simp only [immBOf, bType, BitVec.getLsbD_extractLsb', BitVec.getLsbD_append]
  interval_cases i <;> simp_all

end BType

/-! ## uType -/

section UType
variable (imm : BitVec 20) (rd : RegIdx) (opcode : BitVec 7)

@[simp] theorem immUOf_uType : immUOf (uType imm rd opcode) = imm := by
  apply BitVec.eq_of_getLsbD_eq
  intro i hi
  simp only [immUOf, uType, BitVec.getLsbD_extractLsb', BitVec.getLsbD_append]
  interval_cases i <;> simp
@[simp] theorem rdOf_uType : rdOf (uType imm rd opcode) = rd := by
  apply BitVec.eq_of_getLsbD_eq
  intro i hi
  simp only [rdOf, uType, BitVec.getLsbD_extractLsb', BitVec.getLsbD_append]
  interval_cases i <;> simp
@[simp] theorem opcodeOf_uType : opcodeOf (uType imm rd opcode) = opcode := by
  apply BitVec.eq_of_getLsbD_eq
  intro i hi
  simp only [opcodeOf, uType, BitVec.getLsbD_extractLsb', BitVec.getLsbD_append]
  interval_cases i <;> simp

end UType

/-! ## jType -/

section JType
variable (offset : BitVec 21) (rd : RegIdx) (opcode : BitVec 7)

@[simp] theorem rdOf_jType : rdOf (jType offset rd opcode) = rd := by
  apply BitVec.eq_of_getLsbD_eq
  intro i hi
  simp only [rdOf, jType, BitVec.getLsbD_extractLsb', BitVec.getLsbD_append]
  interval_cases i <;> simp
@[simp] theorem opcodeOf_jType : opcodeOf (jType offset rd opcode) = opcode := by
  apply BitVec.eq_of_getLsbD_eq
  intro i hi
  simp only [opcodeOf, jType, BitVec.getLsbD_extractLsb', BitVec.getLsbD_append]
  interval_cases i <;> simp

/-- The offset reads back when its bit 0 is 0, the bit that is not encoded. -/
theorem immJOf_jType (h : evenOffset offset = true) : immJOf (jType offset rd opcode) = offset := by
  have h0 : offset.getLsbD 0 = false := by simpa [evenOffset] using h
  apply BitVec.eq_of_getLsbD_eq
  intro i hi
  simp only [immJOf, jType, BitVec.getLsbD_extractLsb', BitVec.getLsbD_append]
  interval_cases i <;> simp_all

end JType

/-! ## fenceType -/

section FenceType
variable (fm : BitVec 4) (pred : BitVec 4) (succ : BitVec 4) (rs1 : RegIdx) (funct3 : BitVec 3) (rd : RegIdx) (opcode : BitVec 7)

@[simp] theorem rs1Of_fenceType : rs1Of (fenceType fm pred succ rs1 funct3 rd opcode) = rs1 := by
  apply BitVec.eq_of_getLsbD_eq
  intro i hi
  simp only [rs1Of, fenceType, BitVec.getLsbD_extractLsb', BitVec.getLsbD_append]
  interval_cases i <;> simp
@[simp] theorem funct3Of_fenceType : funct3Of (fenceType fm pred succ rs1 funct3 rd opcode) = funct3 := by
  apply BitVec.eq_of_getLsbD_eq
  intro i hi
  simp only [funct3Of, fenceType, BitVec.getLsbD_extractLsb', BitVec.getLsbD_append]
  interval_cases i <;> simp
@[simp] theorem rdOf_fenceType : rdOf (fenceType fm pred succ rs1 funct3 rd opcode) = rd := by
  apply BitVec.eq_of_getLsbD_eq
  intro i hi
  simp only [rdOf, fenceType, BitVec.getLsbD_extractLsb', BitVec.getLsbD_append]
  interval_cases i <;> simp
@[simp] theorem opcodeOf_fenceType : opcodeOf (fenceType fm pred succ rs1 funct3 rd opcode) = opcode := by
  apply BitVec.eq_of_getLsbD_eq
  intro i hi
  simp only [opcodeOf, fenceType, BitVec.getLsbD_extractLsb', BitVec.getLsbD_append]
  interval_cases i <;> simp
@[simp] theorem fm_fenceType : (fenceType fm pred succ rs1 funct3 rd opcode).extractLsb' 28 4 = fm := by
  apply BitVec.eq_of_getLsbD_eq
  intro i hi
  simp only [fenceType, BitVec.getLsbD_extractLsb', BitVec.getLsbD_append]
  interval_cases i <;> simp
@[simp] theorem pred_fenceType : (fenceType fm pred succ rs1 funct3 rd opcode).extractLsb' 24 4 = pred := by
  apply BitVec.eq_of_getLsbD_eq
  intro i hi
  simp only [fenceType, BitVec.getLsbD_extractLsb', BitVec.getLsbD_append]
  interval_cases i <;> simp
@[simp] theorem succ_fenceType : (fenceType fm pred succ rs1 funct3 rd opcode).extractLsb' 20 4 = succ := by
  apply BitVec.eq_of_getLsbD_eq
  intro i hi
  simp only [fenceType, BitVec.getLsbD_extractLsb', BitVec.getLsbD_append]
  interval_cases i <;> simp

end FenceType

/-! ## A word is the format of its own fields -/

theorem rType_fields (w : Word) :
    rType (funct7Of w) (rs2Of w) (rs1Of w) (funct3Of w) (rdOf w) (opcodeOf w) = w := by
  apply BitVec.eq_of_getLsbD_eq
  intro i hi
  simp only [rType, funct3Of, funct7Of, opcodeOf, rdOf, rs1Of, rs2Of, BitVec.getLsbD_extractLsb', BitVec.getLsbD_append]
  interval_cases i <;> simp

theorem iType_fields (w : Word) :
    iType (immIOf w) (rs1Of w) (funct3Of w) (rdOf w) (opcodeOf w) = w := by
  apply BitVec.eq_of_getLsbD_eq
  intro i hi
  simp only [iType, funct3Of, immIOf, opcodeOf, rdOf, rs1Of, BitVec.getLsbD_extractLsb', BitVec.getLsbD_append]
  interval_cases i <;> simp

theorem sType_fields (w : Word) :
    sType (immSOf w) (rs2Of w) (rs1Of w) (funct3Of w) (opcodeOf w) = w := by
  apply BitVec.eq_of_getLsbD_eq
  intro i hi
  simp only [sType, funct3Of, immSOf, opcodeOf, rs1Of, rs2Of, BitVec.getLsbD_extractLsb', BitVec.getLsbD_append]
  interval_cases i <;> simp

theorem bType_fields (w : Word) :
    bType (immBOf w) (rs2Of w) (rs1Of w) (funct3Of w) (opcodeOf w) = w := by
  apply BitVec.eq_of_getLsbD_eq
  intro i hi
  simp only [bType, funct3Of, immBOf, opcodeOf, rs1Of, rs2Of, BitVec.getLsbD_extractLsb', BitVec.getLsbD_append]
  interval_cases i <;> simp

theorem uType_fields (w : Word) :
    uType (immUOf w) (rdOf w) (opcodeOf w) = w := by
  apply BitVec.eq_of_getLsbD_eq
  intro i hi
  simp only [uType, immUOf, opcodeOf, rdOf, BitVec.getLsbD_extractLsb', BitVec.getLsbD_append]
  interval_cases i <;> simp

theorem jType_fields (w : Word) :
    jType (immJOf w) (rdOf w) (opcodeOf w) = w := by
  apply BitVec.eq_of_getLsbD_eq
  intro i hi
  simp only [jType, immJOf, opcodeOf, rdOf, BitVec.getLsbD_extractLsb', BitVec.getLsbD_append]
  interval_cases i <;> simp

theorem fenceType_fields (w : Word) :
    fenceType (w.extractLsb' 28 4) (w.extractLsb' 24 4) (w.extractLsb' 20 4) (rs1Of w) (funct3Of w) (rdOf w) (opcodeOf w) = w := by
  apply BitVec.eq_of_getLsbD_eq
  intro i hi
  simp only [fenceType, funct3Of, opcodeOf, rdOf, rs1Of, BitVec.getLsbD_extractLsb', BitVec.getLsbD_append]
  interval_cases i <;> simp

theorem evenOffset_immBOf (w : Word) : evenOffset (immBOf w) = true := by
  simp only [evenOffset, immBOf, BitVec.getLsbD_append]
  simp

theorem evenOffset_immJOf (w : Word) : evenOffset (immJOf w) = true := by
  simp only [evenOffset, immJOf, BitVec.getLsbD_append]
  simp

end Sys2Proof
end

