-- ==== Sys2Proof/Laws/Memory.lean ====
section
/-! SUPPORT. The laws of the memory array: what a read gives after a write, and that every operation keeps the canonical
form and the addresses in a region. -/

namespace Sys2Proof.Machine

/-! ## One byte -/

/-- An address below every entry is not listed. -/
theorem Memory.read_of_lt {m : Memory} {a : Nat} (h : ∀ c ∈ m, a < c.1) : m.read a = 0#8 := by
  induction m with
  | nil => rfl
  | cons c cs ih =>
    have hc := h c (by simp)
    simp only [Memory.read, Nat.ne_of_lt hc, if_false]
    exact ih fun d hd => h d (by simp [hd])

theorem Memory.wf_tail {c : Host.Cell} {cs : Memory} (h : Memory.wf (c :: cs)) : Memory.wf cs :=
  ⟨(List.pairwise_cons.1 h.1).2, fun d hd => h.2 d (by simp [hd])⟩

/-- A read after a write: the written byte at its address, everything else as before (R51, R52, R58). -/
theorem Memory.read_write {m : Memory} (hm : m.wf) (a c : Nat) (b : Byte) :
    (m.write a b).read c = if c = a then b else m.read c := by
  induction m with
  | nil =>
    by_cases hb : b = 0#8 <;> by_cases hc : c = a <;> simp [Memory.write, Memory.read, hb, hc]
  | cons d ds ih =>
    have hlt : ∀ e ∈ ds, d.1 < e.1 := (List.pairwise_cons.1 hm.1).1
    have ih := ih (Memory.wf_tail hm)
    unfold Memory.write
    split
    · rename_i had
      have hz : Memory.read (d :: ds) a = 0#8 := Memory.read_of_lt fun e he => by
        rcases List.mem_cons.1 he with rfl | he
        · exact had
        · exact Nat.lt_trans had (hlt e he)
      split
      · rename_i hb; split
        · rename_i hc; rw [hc, hz, hb]
        · rfl
      · simp only [Memory.read]
    · split
      · rename_i _ had
        have hz : Memory.read ds a = 0#8 := Memory.read_of_lt fun e he => had ▸ hlt e he
        split
        · rename_i hb; by_cases hc : c = a
          · rw [if_pos hc, hc, hz, hb]
          · simp [Memory.read, hc, ← had]
        · simp only [Memory.read, ← had]; split <;> rfl
      · rename_i h1 h2
        simp only [Memory.read, ih]
        by_cases hc : c = d.1
        · simp [hc, Ne.symm h2]
        · simp [hc]

theorem Memory.mem_write {m : Memory} {a : Nat} {b : Byte} {c : Host.Cell} (h : c ∈ m.write a b) :
    c ∈ m ∨ (c = (a, b) ∧ b ≠ 0#8) := by
  induction m with
  | nil => unfold Memory.write at h; split at h <;> simp_all
  | cons d ds ih =>
    unfold Memory.write at h
    split at h
    · split at h
      · exact .inl h
      · rcases List.mem_cons.1 h with rfl | h
        · exact .inr ⟨rfl, ‹_›⟩
        · exact .inl h
    · split at h
      · split at h
        · exact .inl (by simp [h])
        · rcases List.mem_cons.1 h with rfl | h
          · exact .inr ⟨rfl, ‹_›⟩
          · exact .inl (by simp [h])
      · rcases List.mem_cons.1 h with rfl | h
        · exact .inl (by simp)
        · rcases ih h with h | h
          · exact .inl (by simp [h])
          · exact .inr h

/-- A write keeps the canonical form. -/
theorem Memory.write_wf {m : Memory} (hm : m.wf) (a : Nat) (b : Byte) : (m.write a b).wf := by
  refine ⟨?_, fun c hc => ?_⟩
  · induction m with
    | nil => unfold Memory.write; split <;> simp
    | cons d ds ih =>
      obtain ⟨hlt, hp⟩ := List.pairwise_cons.1 hm.1
      unfold Memory.write
      split
      · split
        · exact hm.1
        · refine List.pairwise_cons.2 ⟨fun e he => ?_, hm.1⟩
          rcases List.mem_cons.1 he with rfl | he
          · assumption
          · exact Nat.lt_trans ‹_› (hlt e he)
      · split
        · split
          · exact hp
          · rename_i had _
            exact List.pairwise_cons.2 ⟨fun e he => had ▸ hlt e he, hp⟩
        · refine List.pairwise_cons.2 ⟨fun e he => ?_, ih (Memory.wf_tail hm)⟩
          rcases Memory.mem_write he with he | ⟨rfl, _⟩
          · exact hlt e he
          · simp only; omega
  · rcases Memory.mem_write hc with hc | ⟨rfl, hb⟩
    · exact hm.2 c hc
    · exact hb

/-- Two canonical memories that read the same are the same data. -/
theorem Memory.ext_read {m n : Memory} (hm : m.wf) (hn : n.wf) (h : ∀ a, m.read a = n.read a) : m = n := by
  induction m generalizing n with
  | nil =>
    cases n with
    | nil => rfl
    | cons d ds =>
      have := h d.1
      simp only [Memory.read, if_true] at this
      exact absurd this.symm (hn.2 d (by simp))
  | cons c cs ih =>
    cases n with
    | nil =>
      have := h c.1
      simp only [Memory.read, if_true] at this
      exact absurd this (hm.2 c (by simp))
    | cons d ds =>
      have hc := (List.pairwise_cons.1 hm.1).1
      have hd := (List.pairwise_cons.1 hn.1).1
      have key : c.1 = d.1 := by
        rcases Nat.lt_trichotomy c.1 d.1 with hlt | heq | hgt
        · have h1 := h c.1
          rw [Memory.read_of_lt (m := d :: ds) (fun e he => by
            rcases List.mem_cons.1 he with rfl | he
            · exact hlt
            · exact Nat.lt_trans hlt (hd e he))] at h1
          simp only [Memory.read, if_true] at h1
          exact absurd h1 (hm.2 c (by simp))
        · exact heq
        · have h1 := h d.1
          rw [Memory.read_of_lt (m := c :: cs) (fun e he => by
            rcases List.mem_cons.1 he with rfl | he
            · exact hgt
            · exact Nat.lt_trans hgt (hc e he))] at h1
          simp only [Memory.read, if_true] at h1
          exact absurd h1.symm (hn.2 d (by simp))
      have val : c.2 = d.2 := by
        have h1 := h c.1
        simpa [Memory.read, key] using h1
      have tail : cs = ds := by
        refine ih (Memory.wf_tail hm) (Memory.wf_tail hn) fun a => ?_
        have h1 := h a
        simp only [Memory.read, ← key, val] at h1
        by_cases ha : a = c.1
        · rw [ha, Memory.read_of_lt hc, Memory.read_of_lt (key ▸ hd)]
        · simpa [ha] using h1
      rw [tail, show c = d from Prod.ext key val]

/-! ## Several bytes -/

/-- What a byte reads after `n` little-endian bytes were stored at `a` (R52). -/
theorem Memory.read_writeLE {m : Memory} (hm : m.wf) (a n c : Nat) (v : Word) :
    (m.writeLE a n v).read c = if a ≤ c ∧ c < a + n then v.extractLsb' (8 * (c - a)) 8 else m.read c := by
  induction n generalizing m a v with
  | zero => simp only [Memory.writeLE]; rw [if_neg (by omega)]
  | succ n ih =>
    rw [Memory.writeLE, ih (Memory.write_wf hm a _), Memory.read_write hm]
    by_cases h : c = a
    · subst h
      simp only [Nat.sub_self, Nat.le_refl, true_and, if_true]
      rw [if_neg (by omega), if_pos (by omega)]
      ext i hi; simp
    · by_cases hin : a + 1 ≤ c ∧ c < a + 1 + n
      · rw [if_pos hin, if_pos (by omega)]
        ext i hi
        simp only [BitVec.getElem_extractLsb', BitVec.getLsbD_ushiftRight]
        congr 1; omega
      · rw [if_neg hin, if_neg h, if_neg (by omega)]

theorem Memory.writeLE_wf {m : Memory} (hm : m.wf) (a n : Nat) (v : Word) : (m.writeLE a n v).wf := by
  induction n generalizing m a v with
  | zero => exact hm
  | succ n ih => exact ih (Memory.write_wf hm a _) _ _

theorem Memory.mem_writeLE {m : Memory} {a n : Nat} {v : Word} {c : Host.Cell} (h : c ∈ m.writeLE a n v) :
    c ∈ m ∨ (a ≤ c.1 ∧ c.1 < a + n) := by
  induction n generalizing m a v with
  | zero => exact .inl h
  | succ n ih =>
    rcases ih h with h | ⟨h1, h2⟩
    · rcases Memory.mem_write h with h | ⟨rfl, _⟩
      · exact .inl h
      · exact .inr ⟨by simp, by simp⟩
    · exact .inr ⟨by omega, by omega⟩

/-- What a byte reads after a segment was copied to `a` (R49). -/
theorem Memory.read_writeBytes {m : Memory} (hm : m.wf) (a c : Nat) (bs : List Byte) :
    (m.writeBytes a bs).read c = if a ≤ c then (bs[c - a]?).getD (m.read c) else m.read c := by
  induction bs generalizing m a with
  | nil => simp [Memory.writeBytes]
  | cons b bs ih =>
    rw [Memory.writeBytes, ih (Memory.write_wf hm a b), Memory.read_write hm]
    by_cases h : c = a
    · subst h; simp
    · by_cases hle : a ≤ c
      · have : c - a = (c - (a + 1)) + 1 := by omega
        rw [if_pos (by omega : a + 1 ≤ c), if_pos hle, if_neg h, this, List.getElem?_cons_succ]
      · rw [if_neg (by omega), if_neg h, if_neg hle]

theorem Memory.writeBytes_wf {m : Memory} (hm : m.wf) (a : Nat) (bs : List Byte) : (m.writeBytes a bs).wf := by
  induction bs generalizing m a with
  | nil => exact hm
  | cons b bs ih => exact ih (Memory.write_wf hm a b) _

theorem Memory.mem_writeBytes {m : Memory} {a : Nat} {bs : List Byte} {c : Host.Cell} (h : c ∈ m.writeBytes a bs) :
    c ∈ m ∨ (a ≤ c.1 ∧ c.1 < a + bs.length) := by
  induction bs generalizing m a with
  | nil => exact .inl h
  | cons b bs ih =>
    rcases ih h with h | ⟨h1, h2⟩
    · rcases Memory.mem_write h with h | ⟨rfl, _⟩
      · exact .inl h
      · exact .inr ⟨by simp, by simp⟩
    · exact .inr ⟨by omega, by simp only [List.length_cons]; omega⟩

/-! ## Little-endian reads of each width (R44, R51) -/

theorem Memory.readLE_one (m : Memory) (a : Nat) : m.readLE a 1 = (m.read a).setWidth 32 := by
  simp [Memory.readLE]

theorem Memory.readLE_two (m : Memory) (a : Nat) :
    m.readLE a 2 = (m.read (a + 1) ++ m.read a).setWidth 32 := by
  simp only [Memory.readLE]
  generalize m.read a = b0
  generalize m.read (a + 1) = b1
  apply BitVec.eq_of_getLsbD_eq
  intro i hi
  simp only [BitVec.getLsbD_setWidth, BitVec.getLsbD_append]
  interval_cases i <;> simp

theorem Memory.readLE_four (m : Memory) (a : Nat) :
    m.readLE a 4 = m.read (a + 3) ++ m.read (a + 2) ++ m.read (a + 1) ++ m.read a := by
  change m.readLE a 4 = (m.read (a + 1 + 1 + 1) ++ m.read (a + 1 + 1) ++ m.read (a + 1) ++ m.read a : Word)
  simp only [Memory.readLE]
  generalize m.read a = b0
  generalize m.read (a + 1) = b1
  generalize m.read (a + 1 + 1) = b2
  generalize m.read (a + 1 + 1 + 1) = b3
  apply BitVec.eq_of_getLsbD_eq
  intro i hi
  simp only [BitVec.getLsbD_append]
  interval_cases i <;> simp

end Sys2Proof.Machine
end

