-- ==== Sys2Proof/Laws/State.lean ====
section
/-! SUPPORT. One lemma per field per update, so that no later proof unfolds a record update. -/

namespace Sys2Proof.Machine

/-! ## Reading and writing registers -/

@[simp] theorem reg_zero (s : State) : s.reg 0#5 = 0#32 := by simp [State.reg]

@[simp] theorem setReg_zero (s : State) (v : Word) : s.setReg 0#5 v = s := by simp [State.setReg]

/-- What every register reads after a write of one (R26). -/
theorem reg_setReg (s : State) (i r : RegIdx) (v : Word) :
    (s.setReg i v).reg r = if r = 0#5 then 0#32 else if r = i then v else s.reg r := by
  unfold State.setReg State.reg
  by_cases hr : r = 0#5
  · simp [hr]
  · by_cases hi : i = 0#5
    · subst hi; simp [hr]
    · by_cases h : r = i
      · subst h; simp [hr]
      · have hne : i.toNat ≠ r.toNat := fun e => h (BitVec.eq_of_toNat_eq e.symm)
        simp [hr, hi, h, Vector.getElem_set_ne, hne]

theorem reg_congr {s t : State} (h : t.regs = s.regs) (r : RegIdx) : t.reg r = s.reg r := by
  simp [State.reg, h]

@[simp] theorem setReg_pc (s : State) (i : RegIdx) (v : Word) : (s.setReg i v).pc = s.pc := by
  unfold State.setReg; split <;> rfl
@[simp] theorem setReg_mem (s : State) (i : RegIdx) (v : Word) : (s.setReg i v).mem = s.mem := by
  unfold State.setReg; split <;> rfl
@[simp] theorem setReg_config (s : State) (i : RegIdx) (v : Word) : (s.setReg i v).config = s.config := by
  unfold State.setReg; split <;> rfl
@[simp] theorem setReg_status (s : State) (i : RegIdx) (v : Word) : (s.setReg i v).status = s.status := by
  unfold State.setReg; split <;> rfl
@[simp] theorem setReg_lifecycle (s : State) (i : RegIdx) (v : Word) :
    (s.setReg i v).lifecycle = s.lifecycle := by
  unfold State.setReg; split <;> rfl

/-- The stored x0 is left alone (R26). -/
theorem setReg_entry_zero (s : State) (i : RegIdx) (v : Word) : (s.setReg i v).regs[0] = s.regs[0] := by
  unfold State.setReg
  split
  · rfl
  · rename_i h
    have : i.toNat ≠ 0 := fun e => h (BitVec.eq_of_toNat_eq e)
    simp [Vector.getElem_set_ne, this]

/-! ## The pc -/

@[simp] theorem setPc_pc (s : State) (p : Word) : (s.setPc p).pc = p := rfl
@[simp] theorem setPc_regs (s : State) (p : Word) : (s.setPc p).regs = s.regs := rfl
@[simp] theorem setPc_mem (s : State) (p : Word) : (s.setPc p).mem = s.mem := rfl
@[simp] theorem setPc_config (s : State) (p : Word) : (s.setPc p).config = s.config := rfl
@[simp] theorem setPc_status (s : State) (p : Word) : (s.setPc p).status = s.status := rfl
@[simp] theorem setPc_lifecycle (s : State) (p : Word) : (s.setPc p).lifecycle = s.lifecycle := rfl
@[simp] theorem setPc_reg (s : State) (p : Word) (r : RegIdx) : (s.setPc p).reg r = s.reg r := rfl

section Goto
variable (s : State) (sel : PcSel) (taken : Bool) (imm base : Word)

@[simp] theorem goto_pc : (s.goto sel taken imm base).pc = pcMux s.config sel s.pc taken imm base := rfl
@[simp] theorem goto_regs : (s.goto sel taken imm base).regs = s.regs := rfl
@[simp] theorem goto_mem : (s.goto sel taken imm base).mem = s.mem := rfl
@[simp] theorem goto_config : (s.goto sel taken imm base).config = s.config := rfl
@[simp] theorem goto_status : (s.goto sel taken imm base).status = s.status := rfl
@[simp] theorem goto_lifecycle : (s.goto sel taken imm base).lifecycle = s.lifecycle := rfl
@[simp] theorem goto_reg (r : RegIdx) : (s.goto sel taken imm base).reg r = s.reg r := rfl

@[simp] theorem advance_pc : s.advance.pc = s.pc + 4#32 := rfl
@[simp] theorem advance_regs : s.advance.regs = s.regs := rfl
@[simp] theorem advance_mem : s.advance.mem = s.mem := rfl
@[simp] theorem advance_config : s.advance.config = s.config := rfl
@[simp] theorem advance_status : s.advance.status = s.status := rfl
@[simp] theorem advance_lifecycle : s.advance.lifecycle = s.lifecycle := rfl
@[simp] theorem advance_reg (r : RegIdx) : s.advance.reg r = s.reg r := rfl

end Goto

section WriteBack
variable (s : State) (rd : RegIdx) (v : Word)

@[simp] theorem writeBack_pc : (s.writeBack rd v).pc = s.pc + 4#32 := by simp [State.writeBack]
@[simp] theorem writeBack_mem : (s.writeBack rd v).mem = s.mem := by simp [State.writeBack]
@[simp] theorem writeBack_config : (s.writeBack rd v).config = s.config := by simp [State.writeBack]
@[simp] theorem writeBack_status : (s.writeBack rd v).status = s.status := by simp [State.writeBack]
@[simp] theorem writeBack_lifecycle : (s.writeBack rd v).lifecycle = s.lifecycle := by simp [State.writeBack]

theorem writeBack_eq : s.writeBack rd v = (s.setReg rd v).setPc (s.pc + 4#32) := by
  simp [State.writeBack, State.advance, State.goto, pcMux]

/-- What every register reads after a write-back (R26, R103). -/
theorem writeBack_reg (r : RegIdx) :
    (s.writeBack rd v).reg r = if r = 0#5 then 0#32 else if r = rd then v else s.reg r := by
  simp [State.writeBack, reg_setReg]

end WriteBack

/-! ## Starting -/

@[simp] theorem start_pc (s : State) : s.start.pc = s.pc := rfl
@[simp] theorem start_regs (s : State) : s.start.regs = s.regs := rfl
@[simp] theorem start_mem (s : State) : s.start.mem = s.mem := rfl
@[simp] theorem start_config (s : State) : s.start.config = s.config := rfl
@[simp] theorem start_status (s : State) : s.start.status = s.status := rfl
@[simp] theorem start_lifecycle (s : State) : s.start.lifecycle = .started := rfl
@[simp] theorem start_reg (s : State) (r : RegIdx) : s.start.reg r = s.reg r := rfl

/-! ## Halting -/

section Halt
variable (s : State) (r : HaltReason) (k : FaultKind) (word : Option Word)

@[simp] theorem halt_pc : (s.halt r).pc = s.pc := rfl
@[simp] theorem halt_regs : (s.halt r).regs = s.regs := rfl
@[simp] theorem halt_mem : (s.halt r).mem = s.mem := rfl
@[simp] theorem halt_config : (s.halt r).config = s.config := rfl
@[simp] theorem halt_status : (s.halt r).status = .halted r := rfl
@[simp] theorem halt_lifecycle : (s.halt r).lifecycle = s.lifecycle := rfl
@[simp] theorem halt_reg (i : RegIdx) : (s.halt r).reg i = s.reg i := rfl

@[simp] theorem takeFault_pc : (s.takeFault k word).pc = s.pc := rfl
@[simp] theorem takeFault_regs : (s.takeFault k word).regs = s.regs := rfl
@[simp] theorem takeFault_mem : (s.takeFault k word).mem = s.mem := rfl
@[simp] theorem takeFault_config : (s.takeFault k word).config = s.config := rfl
@[simp] theorem takeFault_status : (s.takeFault k word).status = .halted (.fault k s.pc word) := rfl
@[simp] theorem takeFault_lifecycle : (s.takeFault k word).lifecycle = s.lifecycle := rfl
@[simp] theorem takeFault_reg (i : RegIdx) : (s.takeFault k word).reg i = s.reg i := rfl

end Halt

end Sys2Proof.Machine
end

