-- ==== Sys2Proof/Laws/Ops.lean ====
section
/-! SUPPORT. What the shared memory operations can do, said once (R50 to R55). -/

namespace Sys2Proof.Machine

/-! ## Bounds and alignment -/

theorem inBounds_iff (s : State) (a : Word) (n : Nat) : inBounds s.config a n = true ↔ Mapped s a n := by
  simp [inBounds, Mapped]

theorem low_two_bits (a : Word) : a.extractLsb' 0 2 = 0#2 ↔ a.toNat % 4 = 0 := by
  rw [← BitVec.toNat_inj]
  simp [BitVec.extractLsb'_toNat]

theorem alignedFor_word (a : Word) : alignedFor a .word = true ↔ WordAligned a := by
  simp [alignedFor, low_two_bits, WordAligned]

theorem accessFault_of_not_mapped {s : State} {a : Word} {w : Width} (h : ¬ Mapped s a w.bytes) :
    accessFault s.config a w = some .outOfBounds := by
  rw [accessFault, if_neg (mt (inBounds_iff s a w.bytes).1 h)]

theorem accessFault_of_misaligned {s : State} {a : Word} (h : Mapped s a 4) (ha : ¬ WordAligned a) :
    accessFault s.config a .word = some .unaligned := by
  rw [accessFault, if_pos ((inBounds_iff s a Width.word.bytes).2 h),
    if_neg (mt (alignedFor_word a).1 ha)]

theorem accessFault_of_ok {s : State} {a : Word} {w : Width} (h : Mapped s a w.bytes)
    (ha : w = .word → WordAligned a) : accessFault s.config a w = none := by
  have hal : alignedFor a w = true := by
    cases w
    · rfl
    · rfl
    · exact (alignedFor_word a).2 (ha rfl)
  rw [accessFault, if_pos ((inBounds_iff s a w.bytes).2 h), if_pos hal]

/-- The three ways of an access, bounds before alignment (R51 to R54). -/
theorem accessFault_cases (s : State) (a : Word) (w : Width) :
    (¬ Mapped s a w.bytes ∧ accessFault s.config a w = some .outOfBounds) ∨
    (w = .word ∧ Mapped s a w.bytes ∧ ¬ WordAligned a ∧ accessFault s.config a w = some .unaligned) ∨
    (Mapped s a w.bytes ∧ (w = .word → WordAligned a) ∧ accessFault s.config a w = none) := by
  by_cases h : Mapped s a w.bytes
  · by_cases ha : w = .word → WordAligned a
    · exact .inr (.inr ⟨h, ha, accessFault_of_ok h ha⟩)
    · obtain ⟨hw, ha'⟩ := Classical.not_imp.1 ha
      subst hw
      exact .inr (.inl ⟨rfl, h, ha', accessFault_of_misaligned h ha'⟩)
  · exact .inl ⟨h, accessFault_of_not_mapped h⟩

/-- An access raises nothing exactly when its span is mapped and, for a word, aligned (R51 to R54). -/
theorem accessFault_none (s : State) (a : Word) (w : Width) :
    accessFault s.config a w = none ↔ Mapped s a w.bytes ∧ (w = .word → WordAligned a) := by
  refine ⟨fun h => ?_, fun ⟨h, ha⟩ => accessFault_of_ok h ha⟩
  rcases accessFault_cases s a w with ⟨_, hk⟩ | ⟨_, _, _, hk⟩ | ⟨hm, ha, _⟩
  · rw [h] at hk; cases hk
  · rw [h] at hk; cases hk
  · exact ⟨hm, ha⟩

/-- An access raises nothing else (R172). -/
theorem accessFault_some {c : Config} {a : Word} {w : Width} {k : FaultKind} (h : accessFault c a w = some k) :
    k = .outOfBounds ∨ (k = .unaligned ∧ w = .word) := by
  unfold accessFault at h
  split at h
  · split at h
    · cases h
    · rename_i ha
      cases w
      · exact absurd rfl ha
      · exact absurd rfl ha
      · exact .inr ⟨by simpa using h.symm, rfl⟩
  · exact .inl (by simpa using h.symm)

/-! ## Checked reads and writes -/

theorem memRead_of_none {s : State} {a : Word} {w : Width} (h : accessFault s.config a w = none) :
    s.memRead a w = .ok (s.mem.readLE a.toNat w.bytes) := by
  simp [State.memRead, h]

theorem memRead_of_some {s : State} {a : Word} {w : Width} {k : FaultKind} (h : accessFault s.config a w = some k) :
    s.memRead a w = .error k := by
  simp [State.memRead, h]

theorem memWrite_of_none {s : State} {a : Word} {w : Width} {v : Word} (h : accessFault s.config a w = none) :
    s.memWrite a w v = .ok { s with mem := s.mem.writeLE a.toNat w.bytes v } := by
  simp [State.memWrite, h]

theorem memWrite_of_some {s : State} {a : Word} {w : Width} {v : Word} {k : FaultKind}
    (h : accessFault s.config a w = some k) : s.memWrite a w v = .error k := by
  simp [State.memWrite, h]

/-- A word read is the four bytes, little-endian (R44, R51). -/
theorem readLE_wordAt (s : State) (a : Nat) : s.mem.readLE a 4 = wordAt s a :=
  Memory.readLE_four s.mem a

/-! ## Fetch and front end -/

/-- Fetch gives the word at the pc exactly when the pc is mapped and aligned (R55, R97). -/
theorem fetch_ok (s : State) (h : Mapped s s.pc 4) (ha : WordAligned s.pc) : s.fetch = .ok (wordAt s s.pc.toNat) := by
  rw [State.fetch, memRead_of_none (accessFault_of_ok (w := .word) h fun _ => ha)]
  exact congrArg _ (readLE_wordAt s _)

theorem fetch_outOfBounds (s : State) (h : ¬ Mapped s s.pc 4) : s.fetch = .error .outOfBounds :=
  memRead_of_some (accessFault_of_not_mapped (w := .word) h)

theorem fetch_unaligned (s : State) (h : Mapped s s.pc 4) (ha : ¬ WordAligned s.pc) : s.fetch = .error .unaligned :=
  memRead_of_some (accessFault_of_misaligned h ha)

/-- Fetch fails only in these two ways (R97). -/
theorem fetch_cases (s : State) :
    (¬ Mapped s s.pc 4 ∧ s.fetch = .error .outOfBounds) ∨
    (Mapped s s.pc 4 ∧ ¬ WordAligned s.pc ∧ s.fetch = .error .unaligned) ∨
    (Mapped s s.pc 4 ∧ WordAligned s.pc ∧ s.fetch = .ok (wordAt s s.pc.toNat)) := by
  by_cases h : Mapped s s.pc 4
  · by_cases ha : WordAligned s.pc
    · exact .inr (.inr ⟨h, ha, fetch_ok s h ha⟩)
    · exact .inr (.inl ⟨h, ha, fetch_unaligned s h ha⟩)
  · exact .inl ⟨h, fetch_outOfBounds s h⟩

/-- The front end reads the configuration, the pc and memory, nothing else (R97, R98). -/
theorem frontEnd_congr {s t : State} (hc : t.config = s.config) (hp : t.pc = s.pc) (hm : t.mem = s.mem) :
    t.frontEnd = s.frontEnd := by
  simp [State.frontEnd, State.fetch, State.memRead, hc, hp, hm]

@[simp] theorem start_frontEnd (s : State) : s.start.frontEnd = s.frontEnd := frontEnd_congr rfl rfl rfl

end Sys2Proof.Machine
end

