-- ==== Sys2Proof/Laws/Exec.lean ====
section
/-! SUPPORT. What the meanings can do, said once per shared operation and then once for `exec`. -/

namespace Sys2Proof.Machine

/-- The load path (R125): a fault taken, or one register written. -/
theorem loadInto_cases (i : Instr) (w : Width) (e : Ext) (rd rs1 : RegIdx) (imm : BitVec 12) (s : State) :
    (∃ k, accessFault s.config (s.effAddr rs1 imm) w = some k ∧
      loadInto i w e rd rs1 imm s = .next (s.takeFault k (some (encode i)))) ∨
    (accessFault s.config (s.effAddr rs1 imm) w = none ∧
      loadInto i w e rd rs1 imm s =
        .next (s.writeBack rd (extend w e (s.mem.readLE (s.effAddr rs1 imm).toNat w.bytes)))) := by
  cases h : accessFault s.config (s.effAddr rs1 imm) w with
  | some k => exact .inl ⟨k, rfl, by simp [loadInto, memRead_of_some h]⟩
  | none => exact .inr ⟨rfl, by simp [loadInto, memRead_of_none h]⟩

/-- The store path (R131): a fault taken, or the bytes written. -/
theorem storeFrom_cases (i : Instr) (w : Width) (rs1 rs2 : RegIdx) (imm : BitVec 12) (s : State) :
    (∃ k, accessFault s.config (s.effAddr rs1 imm) w = some k ∧
      storeFrom i w rs1 rs2 imm s = .next (s.takeFault k (some (encode i)))) ∨
    (accessFault s.config (s.effAddr rs1 imm) w = none ∧
      storeFrom i w rs1 rs2 imm s =
        .next ({ s with mem := s.mem.writeLE (s.effAddr rs1 imm).toNat w.bytes (s.reg rs2) } : State).advance) := by
  cases h : accessFault s.config (s.effAddr rs1 imm) w with
  | some k => exact .inl ⟨k, rfl, by simp [storeFrom, memWrite_of_some h]⟩
  | none => exact .inr ⟨rfl, by simp [storeFrom, memWrite_of_none h]⟩

/-- Everything an executed instruction can do: write its destination register and the pc, its data access, if it makes one,
raising nothing; write the pc; store bytes inside the region and write the pc; or take the fault of its own data access. -/
inductive ExecCase (i : Instr) (s t : State) : Prop where
  | write (rd : RegIdx) (v p : Word) (hd : destOf i = some rd)
      (hf : ∀ w, accessWidth i = some w → accessFault s.config (accessAddr i s) w = none)
      (ht : t = (s.setReg rd v).setPc p)
  | jump (p : Word) (hd : destOf i = none) (hw : accessWidth i = none) (hs : isStore i = false) (ht : t = s.setPc p)
  | store (w : Width) (v : Word) (hd : destOf i = none) (hs : isStore i = true) (hw : accessWidth i = some w)
      (hf : accessFault s.config (accessAddr i s) w = none)
      (ht : t = ({ s with mem := s.mem.writeLE (accessAddr i s).toNat w.bytes v } : State).setPc (s.pc + 4#32))
  | fault (w : Width) (k : FaultKind) (hw : accessWidth i = some w)
      (hf : accessFault s.config (accessAddr i s) w = some k) (ht : t = s.takeFault k (some (encode i)))

section Cases
variable {i : Instr} {s t : State} {w : Width} {e : Ext} {rd rs1 rs2 : RegIdx} {imm : BitVec 12}

theorem execCase_of_load (h : loadInto i w e rd rs1 imm s = .next t) (hd : destOf i = some rd)
    (hw : accessWidth i = some w) (ha : accessAddr i s = s.effAddr rs1 imm) : ExecCase i s t := by
  rcases loadInto_cases i w e rd rs1 imm s with ⟨k, hf, hk⟩ | ⟨hf, hk⟩
  · rw [hk] at h
    cases h
    exact .fault w k hw (ha ▸ hf) rfl
  · rw [hk] at h
    cases h
    refine .write rd _ (s.pc + 4#32) hd (fun w' hw' => ?_) (writeBack_eq ..)
    rw [hw] at hw'
    cases hw'
    exact ha ▸ hf

theorem execCase_of_store (h : storeFrom i w rs1 rs2 imm s = .next t) (hd : destOf i = none)
    (hs : isStore i = true) (hw : accessWidth i = some w) (ha : accessAddr i s = s.effAddr rs1 imm) :
    ExecCase i s t := by
  rcases storeFrom_cases i w rs1 rs2 imm s with ⟨k, hf, hk⟩ | ⟨hf, hk⟩
  · rw [hk] at h
    cases h
    exact .fault w k hw (ha ▸ hf) rfl
  · rw [hk] at h
    cases h
    exact .store w (s.reg rs2) hd hs hw (ha ▸ hf) (by rw [ha]; rfl)

theorem execCase_of_writeBack {v : Word} (h : (.next (s.writeBack rd v) : Result) = .next t)
    (hd : destOf i = some rd) (hw : accessWidth i = none) : ExecCase i s t :=
  .write rd v (s.pc + 4#32) hd (fun w hw' => by rw [hw] at hw'; cases hw') (by cases h; exact writeBack_eq ..)

theorem execCase_of_goto {sel : PcSel} {taken : Bool} {a b : Word}
    (h : (.next (s.goto sel taken a b) : Result) = .next t) (hd : destOf i = none)
    (hw : accessWidth i = none) (hs : isStore i = false) : ExecCase i s t :=
  .jump (pcMux s.config sel s.pc taken a b) hd hw hs (by cases h; rfl)

end Cases

/-- The inversion lemma of `exec` (R101, R102, R103). -/
theorem exec_cases {i : Instr} {s t : State} (h : exec i s = .next t) : ExecCase i s t := by
  cases i with
  | lui rd imm => exact execCase_of_writeBack h rfl rfl
  | auipc rd imm => exact execCase_of_writeBack h rfl rfl
  | jal rd offset => exact .write rd (s.pc + 4#32) _ rfl nofun (by cases h; rfl)
  | jalr rd rs1 imm => exact .write rd (s.pc + 4#32) _ rfl nofun (by cases h; rfl)
  | beq => exact execCase_of_goto h rfl rfl rfl
  | bne => exact execCase_of_goto h rfl rfl rfl
  | blt => exact execCase_of_goto h rfl rfl rfl
  | bge => exact execCase_of_goto h rfl rfl rfl
  | bltu => exact execCase_of_goto h rfl rfl rfl
  | bgeu => exact execCase_of_goto h rfl rfl rfl
  | lb => exact execCase_of_load h rfl rfl rfl
  | lh => exact execCase_of_load h rfl rfl rfl
  | lw => exact execCase_of_load h rfl rfl rfl
  | lbu => exact execCase_of_load h rfl rfl rfl
  | lhu => exact execCase_of_load h rfl rfl rfl
  | sb => exact execCase_of_store h rfl rfl rfl rfl
  | sh => exact execCase_of_store h rfl rfl rfl rfl
  | sw => exact execCase_of_store h rfl rfl rfl rfl
  | fence => exact execCase_of_goto h rfl rfl rfl
  | fenceI => exact execCase_of_goto h rfl rfl rfl
  | ecall => exact execCase_of_goto h rfl rfl rfl
  | ebreak => exact execCase_of_goto h rfl rfl rfl
  | csrrw => exact execCase_of_goto h rfl rfl rfl
  | csrrs => exact execCase_of_goto h rfl rfl rfl
  | csrrc => exact execCase_of_goto h rfl rfl rfl
  | csrrwi => exact execCase_of_goto h rfl rfl rfl
  | csrrsi => exact execCase_of_goto h rfl rfl rfl
  | csrrci => exact execCase_of_goto h rfl rfl rfl
  | _ => exact execCase_of_writeBack h rfl rfl

/-- Every instruction answers a next state, on every state: a fault of its own access is one too (R102, R187). -/
theorem exec_next (i : Instr) (s : State) : ∃ t, exec i s = .next t := by
  cases i with
  | lb rd rs1 imm => rcases loadInto_cases (.lb rd rs1 imm) .byte .signed rd rs1 imm s with ⟨_, _, h⟩ | ⟨_, h⟩ <;> exact ⟨_, h⟩
  | lh rd rs1 imm => rcases loadInto_cases (.lh rd rs1 imm) .half .signed rd rs1 imm s with ⟨_, _, h⟩ | ⟨_, h⟩ <;> exact ⟨_, h⟩
  | lw rd rs1 imm => rcases loadInto_cases (.lw rd rs1 imm) .word .signed rd rs1 imm s with ⟨_, _, h⟩ | ⟨_, h⟩ <;> exact ⟨_, h⟩
  | lbu rd rs1 imm => rcases loadInto_cases (.lbu rd rs1 imm) .byte .unsigned rd rs1 imm s with ⟨_, _, h⟩ | ⟨_, h⟩ <;> exact ⟨_, h⟩
  | lhu rd rs1 imm => rcases loadInto_cases (.lhu rd rs1 imm) .half .unsigned rd rs1 imm s with ⟨_, _, h⟩ | ⟨_, h⟩ <;> exact ⟨_, h⟩
  | sb rs1 rs2 imm => rcases storeFrom_cases (.sb rs1 rs2 imm) .byte rs1 rs2 imm s with ⟨_, _, h⟩ | ⟨_, h⟩ <;> exact ⟨_, h⟩
  | sh rs1 rs2 imm => rcases storeFrom_cases (.sh rs1 rs2 imm) .half rs1 rs2 imm s with ⟨_, _, h⟩ | ⟨_, h⟩ <;> exact ⟨_, h⟩
  | sw rs1 rs2 imm => rcases storeFrom_cases (.sw rs1 rs2 imm) .word rs1 rs2 imm s with ⟨_, _, h⟩ | ⟨_, h⟩ <;> exact ⟨_, h⟩
  | _ => exact ⟨_, rfl⟩

/-- No instruction touches the configuration or the lifecycle (R7, R8). -/
theorem exec_config {i : Instr} {s t : State} (h : exec i s = .next t) :
    t.config = s.config ∧ t.lifecycle = s.lifecycle := by
  cases exec_cases h with
  | write _ _ _ _ _ ht => subst ht; simp
  | jump _ _ _ _ ht => subst ht; simp
  | store _ _ _ _ _ _ ht => subst ht; simp
  | fault _ _ _ _ ht => subst ht; simp

end Sys2Proof.Machine
end

