-- ==== Sys2Proof/Laws/PerInstr.lean ====
section
/-! SUPPORT. The per-instruction family EncodedRow: the word of an instruction is a word of its own row of
spec/opcode_table.json. -/

namespace Sys2Proof

/-! ## What the masks of the table leave of each format -/

theorem rType_mask (funct7 : BitVec 7) (rs2 rs1 : RegIdx) (funct3 : BitVec 3) (rd : RegIdx) (opcode : BitVec 7) :
    rType funct7 rs2 rs1 funct3 rd opcode &&& 0xFE00707F#32 = rType funct7 0 0 funct3 0 opcode := by
  apply BitVec.eq_of_getLsbD_eq
  intro i hi
  simp only [rType, BitVec.getLsbD_and, BitVec.getLsbD_append]
  interval_cases i <;> simp

theorem iType_mask (imm : BitVec 12) (rs1 : RegIdx) (funct3 : BitVec 3) (rd : RegIdx) (opcode : BitVec 7) :
    iType imm rs1 funct3 rd opcode &&& 0x0000707F#32 = iType 0 0 funct3 0 opcode := by
  apply BitVec.eq_of_getLsbD_eq
  intro i hi
  simp only [iType, BitVec.getLsbD_and, BitVec.getLsbD_append]
  interval_cases i <;> simp

theorem sType_mask (imm : BitVec 12) (rs2 rs1 : RegIdx) (funct3 : BitVec 3) (opcode : BitVec 7) :
    sType imm rs2 rs1 funct3 opcode &&& 0x0000707F#32 = sType 0 0 0 funct3 opcode := by
  apply BitVec.eq_of_getLsbD_eq
  intro i hi
  simp only [sType, BitVec.getLsbD_and, BitVec.getLsbD_append]
  interval_cases i <;> simp

theorem bType_mask (offset : BitVec 13) (rs2 rs1 : RegIdx) (funct3 : BitVec 3) (opcode : BitVec 7) :
    bType offset rs2 rs1 funct3 opcode &&& 0x0000707F#32 = bType 0 0 0 funct3 opcode := by
  apply BitVec.eq_of_getLsbD_eq
  intro i hi
  simp only [bType, BitVec.getLsbD_and, BitVec.getLsbD_append]
  interval_cases i <;> simp

theorem uType_mask (imm : BitVec 20) (rd : RegIdx) (opcode : BitVec 7) :
    uType imm rd opcode &&& 0x0000007F#32 = uType 0 0 opcode := by
  apply BitVec.eq_of_getLsbD_eq
  intro i hi
  simp only [uType, BitVec.getLsbD_and, BitVec.getLsbD_append]
  interval_cases i <;> simp

theorem jType_mask (offset : BitVec 21) (rd : RegIdx) (opcode : BitVec 7) :
    jType offset rd opcode &&& 0x0000007F#32 = jType 0 0 opcode := by
  apply BitVec.eq_of_getLsbD_eq
  intro i hi
  simp only [jType, BitVec.getLsbD_and, BitVec.getLsbD_append]
  interval_cases i <;> simp

theorem fenceType_mask (fm pred succ : BitVec 4) (rs1 : RegIdx) (funct3 : BitVec 3) (rd : RegIdx) (opcode : BitVec 7) :
    fenceType fm pred succ rs1 funct3 rd opcode &&& 0x0000707F#32 = fenceType 0 0 0 0 funct3 0 opcode := by
  apply BitVec.eq_of_getLsbD_eq
  intro i hi
  simp only [fenceType, BitVec.getLsbD_and, BitVec.getLsbD_append]
  interval_cases i <;> simp

namespace Laws.EncodedRow

/-- The encoded word carries the fixed bits of its row. -/
def Statement (i : Instr) : Prop := encode i &&& i.row.mask = i.row.bits

theorem lui (rd : RegIdx) (imm : BitVec 20) : Statement (.lui rd imm) := (uType_mask ..).trans (by simp only [Instr.row]; decide)
theorem auipc (rd : RegIdx) (imm : BitVec 20) : Statement (.auipc rd imm) := (uType_mask ..).trans (by simp only [Instr.row]; decide)
theorem jal (rd : RegIdx) (offset : BitVec 21) : Statement (.jal rd offset) := (jType_mask ..).trans (by simp only [Instr.row]; decide)
theorem jalr (rd rs1 : RegIdx) (imm : BitVec 12) : Statement (.jalr rd rs1 imm) := (iType_mask ..).trans (by simp only [Instr.row]; decide)
theorem beq (rs1 rs2 : RegIdx) (offset : BitVec 13) : Statement (.beq rs1 rs2 offset) := (bType_mask ..).trans (by simp only [Instr.row]; decide)
theorem bne (rs1 rs2 : RegIdx) (offset : BitVec 13) : Statement (.bne rs1 rs2 offset) := (bType_mask ..).trans (by simp only [Instr.row]; decide)
theorem blt (rs1 rs2 : RegIdx) (offset : BitVec 13) : Statement (.blt rs1 rs2 offset) := (bType_mask ..).trans (by simp only [Instr.row]; decide)
theorem bge (rs1 rs2 : RegIdx) (offset : BitVec 13) : Statement (.bge rs1 rs2 offset) := (bType_mask ..).trans (by simp only [Instr.row]; decide)
theorem bltu (rs1 rs2 : RegIdx) (offset : BitVec 13) : Statement (.bltu rs1 rs2 offset) := (bType_mask ..).trans (by simp only [Instr.row]; decide)
theorem bgeu (rs1 rs2 : RegIdx) (offset : BitVec 13) : Statement (.bgeu rs1 rs2 offset) := (bType_mask ..).trans (by simp only [Instr.row]; decide)
theorem lb (rd rs1 : RegIdx) (imm : BitVec 12) : Statement (.lb rd rs1 imm) := (iType_mask ..).trans (by simp only [Instr.row]; decide)
theorem lh (rd rs1 : RegIdx) (imm : BitVec 12) : Statement (.lh rd rs1 imm) := (iType_mask ..).trans (by simp only [Instr.row]; decide)
theorem lw (rd rs1 : RegIdx) (imm : BitVec 12) : Statement (.lw rd rs1 imm) := (iType_mask ..).trans (by simp only [Instr.row]; decide)
theorem lbu (rd rs1 : RegIdx) (imm : BitVec 12) : Statement (.lbu rd rs1 imm) := (iType_mask ..).trans (by simp only [Instr.row]; decide)
theorem lhu (rd rs1 : RegIdx) (imm : BitVec 12) : Statement (.lhu rd rs1 imm) := (iType_mask ..).trans (by simp only [Instr.row]; decide)
theorem sb (rs1 rs2 : RegIdx) (imm : BitVec 12) : Statement (.sb rs1 rs2 imm) := (sType_mask ..).trans (by simp only [Instr.row]; decide)
theorem sh (rs1 rs2 : RegIdx) (imm : BitVec 12) : Statement (.sh rs1 rs2 imm) := (sType_mask ..).trans (by simp only [Instr.row]; decide)
theorem sw (rs1 rs2 : RegIdx) (imm : BitVec 12) : Statement (.sw rs1 rs2 imm) := (sType_mask ..).trans (by simp only [Instr.row]; decide)
theorem addi (rd rs1 : RegIdx) (imm : BitVec 12) : Statement (.addi rd rs1 imm) := (iType_mask ..).trans (by simp only [Instr.row]; decide)
theorem slti (rd rs1 : RegIdx) (imm : BitVec 12) : Statement (.slti rd rs1 imm) := (iType_mask ..).trans (by simp only [Instr.row]; decide)
theorem sltiu (rd rs1 : RegIdx) (imm : BitVec 12) : Statement (.sltiu rd rs1 imm) := (iType_mask ..).trans (by simp only [Instr.row]; decide)
theorem xori (rd rs1 : RegIdx) (imm : BitVec 12) : Statement (.xori rd rs1 imm) := (iType_mask ..).trans (by simp only [Instr.row]; decide)
theorem ori (rd rs1 : RegIdx) (imm : BitVec 12) : Statement (.ori rd rs1 imm) := (iType_mask ..).trans (by simp only [Instr.row]; decide)
theorem andi (rd rs1 : RegIdx) (imm : BitVec 12) : Statement (.andi rd rs1 imm) := (iType_mask ..).trans (by simp only [Instr.row]; decide)
theorem slli (rd rs1 : RegIdx) (shamt : BitVec 5) : Statement (.slli rd rs1 shamt) := (rType_mask ..).trans (by simp only [Instr.row]; decide)
theorem srli (rd rs1 : RegIdx) (shamt : BitVec 5) : Statement (.srli rd rs1 shamt) := (rType_mask ..).trans (by simp only [Instr.row]; decide)
theorem srai (rd rs1 : RegIdx) (shamt : BitVec 5) : Statement (.srai rd rs1 shamt) := (rType_mask ..).trans (by simp only [Instr.row]; decide)
theorem add (rd rs1 rs2 : RegIdx) : Statement (.add rd rs1 rs2) := (rType_mask ..).trans (by simp only [Instr.row]; decide)
theorem sub (rd rs1 rs2 : RegIdx) : Statement (.sub rd rs1 rs2) := (rType_mask ..).trans (by simp only [Instr.row]; decide)
theorem sll (rd rs1 rs2 : RegIdx) : Statement (.sll rd rs1 rs2) := (rType_mask ..).trans (by simp only [Instr.row]; decide)
theorem slt (rd rs1 rs2 : RegIdx) : Statement (.slt rd rs1 rs2) := (rType_mask ..).trans (by simp only [Instr.row]; decide)
theorem sltu (rd rs1 rs2 : RegIdx) : Statement (.sltu rd rs1 rs2) := (rType_mask ..).trans (by simp only [Instr.row]; decide)
theorem xor (rd rs1 rs2 : RegIdx) : Statement (.xor rd rs1 rs2) := (rType_mask ..).trans (by simp only [Instr.row]; decide)
theorem srl (rd rs1 rs2 : RegIdx) : Statement (.srl rd rs1 rs2) := (rType_mask ..).trans (by simp only [Instr.row]; decide)
theorem sra (rd rs1 rs2 : RegIdx) : Statement (.sra rd rs1 rs2) := (rType_mask ..).trans (by simp only [Instr.row]; decide)
theorem or (rd rs1 rs2 : RegIdx) : Statement (.or rd rs1 rs2) := (rType_mask ..).trans (by simp only [Instr.row]; decide)
theorem and (rd rs1 rs2 : RegIdx) : Statement (.and rd rs1 rs2) := (rType_mask ..).trans (by simp only [Instr.row]; decide)
theorem fence (fm pred succ : BitVec 4) (rs1 rd : RegIdx) : Statement (.fence fm pred succ rs1 rd) := (fenceType_mask ..).trans (by simp only [Instr.row]; decide)
theorem fenceI (imm : BitVec 12) (rs1 rd : RegIdx) : Statement (.fenceI imm rs1 rd) := (iType_mask ..).trans (by simp only [Instr.row]; decide)
theorem ecall : Statement .ecall := by unfold Statement; decide
theorem ebreak : Statement .ebreak := by unfold Statement; decide
theorem csrrw (rd rs1 : RegIdx) (csr : BitVec 12) : Statement (.csrrw rd rs1 csr) := (iType_mask ..).trans (by simp only [Instr.row]; decide)
theorem csrrs (rd rs1 : RegIdx) (csr : BitVec 12) : Statement (.csrrs rd rs1 csr) := (iType_mask ..).trans (by simp only [Instr.row]; decide)
theorem csrrc (rd rs1 : RegIdx) (csr : BitVec 12) : Statement (.csrrc rd rs1 csr) := (iType_mask ..).trans (by simp only [Instr.row]; decide)
theorem csrrwi (rd : RegIdx) (uimm : BitVec 5) (csr : BitVec 12) : Statement (.csrrwi rd uimm csr) := (iType_mask ..).trans (by simp only [Instr.row]; decide)
theorem csrrsi (rd : RegIdx) (uimm : BitVec 5) (csr : BitVec 12) : Statement (.csrrsi rd uimm csr) := (iType_mask ..).trans (by simp only [Instr.row]; decide)
theorem csrrci (rd : RegIdx) (uimm : BitVec 5) (csr : BitVec 12) : Statement (.csrrci rd uimm csr) := (iType_mask ..).trans (by simp only [Instr.row]; decide)

end Laws.EncodedRow

end Sys2Proof
end

