-- ==== Sys2Proof/Laws/Step.lean ====
section
/-! SUPPORT. What a step can do, said once (R96, R194, R195). -/

namespace Sys2Proof.Machine

theorem step_created {s : State} (h : s.lifecycle = .created) : step s = .refused .notReset := by
  simp [step, h]

theorem step_halted {s : State} {r : HaltReason} (hl : s.lifecycle ≠ .created) (h : s.status = .halted r) :
    step s = .next s := by
  cases hc : s.lifecycle <;> simp_all [step]

/-- A step of a runnable state is the front end and then the instruction (R96). -/
theorem step_runnable {s : State} (h : Runnable s) :
    step s = match s.frontEnd with
      | .halt r => .next (s.start.halt r)
      | .run i => exec i s.start := by
  obtain ⟨hl, hs⟩ := h
  cases hc : s.lifecycle
  · exact absurd hc hl
  · cases hf : s.frontEnd <;> simp [step, hc, hs, hf]
  · cases hf : s.frontEnd <;> simp [step, hc, hs, hf]

theorem step_of_halt {s : State} {r : HaltReason} (h : Runnable s) (hf : s.frontEnd = .halt r) :
    step s = .next (s.start.halt r) := by
  rw [step_runnable h, hf]

theorem step_of_run {s : State} {i : Instr} (h : Runnable s) (hf : s.frontEnd = .run i) :
    step s = exec i s.start := by
  rw [step_runnable h, hf]

/-- The inversion lemma of `step`: the core was halted and nothing happened; or the front end halted it; or an
instruction was executed. -/
theorem step_cases {s t : State} (h : step s = .next t) :
    (s.lifecycle ≠ .created ∧ (∃ r, s.status = .halted r) ∧ t = s) ∨
    (Runnable s ∧ ∃ r, s.frontEnd = .halt r ∧ t = s.start.halt r) ∨
    (Runnable s ∧ ∃ i, s.frontEnd = .run i ∧ exec i s.start = .next t) := by
  by_cases hl : s.lifecycle = .created
  · rw [step_created hl] at h; cases h
  · cases hs : s.status with
    | halted r =>
      rw [step_halted hl hs] at h
      cases h
      exact .inl ⟨hl, ⟨r, rfl⟩, rfl⟩
    | running =>
      have hr : Runnable s := ⟨hl, hs⟩
      cases hf : s.frontEnd with
      | halt r => rw [step_of_halt hr hf] at h; cases h; exact .inr (.inl ⟨hr, r, rfl, rfl⟩)
      | run i => rw [step_of_run hr hf] at h; exact .inr (.inr ⟨hr, i, rfl, h⟩)

/-- A step is refused before the first reset and answers a next state after it, always (R187, R195). -/
theorem step_next {s : State} (h : s.lifecycle ≠ .created) : ∃ t, step s = .next t := by
  cases hs : s.status with
  | halted r => exact ⟨s, step_halted h hs⟩
  | running =>
    have hr : Runnable s := ⟨h, hs⟩
    cases hf : s.frontEnd with
    | halt r => exact ⟨_, step_of_halt hr hf⟩
    | run i => rw [step_of_run hr hf]; exact exec_next i _

/-- Through the instruction at the pc (R97, R98): the one way a step comes to execute. -/
theorem frontEnd_run {s : State} {i : Instr} (h : s.frontEnd = .run i) :
    Mapped s s.pc 4 ∧ WordAligned s.pc ∧ wordAt s s.pc.toNat ≠ s.config.sentinel ∧
      decode (wordAt s s.pc.toNat) = .ok i := by
  rcases fetch_cases s with ⟨_, hf⟩ | ⟨_, _, hf⟩ | ⟨hm, ha, hf⟩
  · simp [State.frontEnd, hf] at h
  · simp [State.frontEnd, hf] at h
  · refine ⟨hm, ha, ?_⟩
    by_cases hne : wordAt s s.pc.toNat = s.config.sentinel
    · simp [State.frontEnd, hf, isSentinel, hne] at h
    · cases hd : decode (wordAt s s.pc.toNat) with
      | error k => simp [State.frontEnd, hf, isSentinel, hne, hd] at h
      | ok j => simp [State.frontEnd, hf, isSentinel, hne, hd] at h; exact ⟨hne, by rw [h]⟩

theorem frontEnd_of_decode {s : State} {i : Instr} (hm : Mapped s s.pc 4) (ha : WordAligned s.pc)
    (hn : wordAt s s.pc.toNat ≠ s.config.sentinel) (hd : decode (wordAt s s.pc.toNat) = .ok i) :
    s.frontEnd = .run i := by
  simp [State.frontEnd, fetch_ok s hm ha, isSentinel, hn, hd]

/-- A bad pc faults at the fetch (R32, R97). -/
theorem badPc_faultsAtFetch (t : State) : BadPcFaultsAtFetch t := by
  intro hr
  refine ⟨fun h => ⟨_, step_of_halt hr (r := .fault .outOfBounds t.pc none) ?_, ?_⟩,
    fun h ha => ⟨_, step_of_halt hr (r := .fault .unaligned t.pc none) ?_, ?_⟩⟩
  · simp [State.frontEnd, fetch_outOfBounds t h]
  · exact ⟨rfl, fun _ => rfl, rfl, fun _ => rfl, rfl, rfl⟩
  · simp [State.frontEnd, fetch_unaligned t h ha]
  · exact ⟨rfl, fun _ => rfl, rfl, fun _ => rfl, rfl, rfl⟩

/-- The outcome a host sees is the status (R37, R194). -/
theorem outcome_continue {t : State} : t.outcome = .continue ↔ t.status = .running := by
  unfold State.outcome; split <;> simp_all

theorem outcome_halt {t : State} {r : HaltReason} : t.outcome = .halt r ↔ t.status = .halted r := by
  unfold State.outcome; split <;> simp_all

/-- A step that continues has executed the instruction its word at the pc decodes to (R96). -/
theorem step_continue {s t : State} (h : step s = .next t) (ho : t.outcome = .continue) :
    ∃ i, decode (wordAt s s.pc.toNat) = .ok i ∧ exec i s.start = .next t := by
  rcases step_cases h with ⟨_, ⟨r, hr⟩, rfl⟩ | ⟨_, r, _, rfl⟩ | ⟨_, i, hi, he⟩
  · rw [outcome_halt.2 hr] at ho; cases ho
  · cases ho
  · exact ⟨i, (frontEnd_run hi).2.2.2, he⟩

/-! ## Several steps of the host's machine -/

theorem hostRun_succ {M : Host.Core} {n : Nat} {s t : M.State} (h : M.step s = .next t) :
    M.run (n + 1) s = M.run n t := by
  simp only [Host.Core.run, h]

theorem core_run_succ {n : Nat} {s t : State} (h : step s = .next t) : core.run (n + 1) s = core.run n t :=
  hostRun_succ (M := core) h

end Sys2Proof.Machine
end

