-- ==== Sys2Proof/Tests/Slice0.lean ====
section
/-! SUPPORT. The model's own tests. Every expected word and value is the spec's own: the examples of 41 to 45 and the vectors
V<n> of 95_test_vectors.md. Then one witness per statement that has hypotheses. -/

namespace Sys2Proof.Tests

open Sys2Proof Sys2Proof.Machine

/-! ## WellFormed: each check refuses an ill-formed term -/

theorem test_wf_jal_odd_refused : (Instr.jal 1 3).wf = false ∧ (Instr.jal 1 0x1FFFFF).wf = false := by decide
theorem test_wf_beq_odd_refused : (Instr.beq 1 2 1).wf = false ∧ (Instr.beq 1 2 0x1FFF).wf = false := by decide
theorem test_wf_bne_odd_refused : (Instr.bne 1 2 9).wf = false := by decide
theorem test_wf_blt_odd_refused : (Instr.blt 1 2 9).wf = false := by decide
theorem test_wf_bge_odd_refused : (Instr.bge 1 2 9).wf = false := by decide
theorem test_wf_bltu_odd_refused : (Instr.bltu 1 2 9).wf = false := by decide
theorem test_wf_bgeu_odd_refused : (Instr.bgeu 1 2 9).wf = false := by decide
theorem test_wf_even_accepted : (Instr.jal 1 (-4)).wf = true ∧ (Instr.beq 1 2 (-4096)).wf = true ∧
    (Instr.jal 0 2).wf = true ∧ (Instr.bgeu 3 4 2).wf = true := by decide

/-! ## Decode: the spec's own words, every constructor -/

theorem test_decode_upper_immediate :
    decode 0x123452B7#32 = .ok (.lui 5 0x12345) ∧
    decode 0x80000297#32 = .ok (.auipc 5 0x80000) ∧
    decode 0x00001317#32 = .ok (.auipc 6 1) := by decide
theorem test_decode_jumps :
    decode 0x008000EF#32 = .ok (.jal 1 8) ∧
    decode 0xFFDFF06F#32 = .ok (.jal 0 (-4)) ∧
    decode 0x800000EF#32 = .ok (.jal 1 (-0x100000)) ∧
    decode 0xFFC280E7#32 = .ok (.jalr 1 5 (-4)) := by decide
theorem test_decode_branches :
    decode 0x80208063#32 = .ok (.beq 1 2 (-4096)) ∧
    decode 0xFE209CE3#32 = .ok (.bne 1 2 (-8)) ∧
    decode 0x0020C663#32 = .ok (.blt 1 2 12) ∧
    decode 0x0020D663#32 = .ok (.bge 1 2 12) ∧
    decode 0x0020E663#32 = .ok (.bltu 1 2 12) ∧
    decode 0x0020F663#32 = .ok (.bgeu 1 2 12) := by decide
theorem test_decode_loads :
    decode 0xFFF10083#32 = .ok (.lb 1 2 (-1)) ∧
    decode 0x00111083#32 = .ok (.lh 1 2 1) ∧
    decode 0xFFC12083#32 = .ok (.lw 1 2 (-4)) ∧
    decode 0x00014083#32 = .ok (.lbu 1 2 0) ∧
    decode 0x00315083#32 = .ok (.lhu 1 2 3) := by decide
theorem test_decode_stores :
    decode 0xFE310FA3#32 = .ok (.sb 2 3 (-1)) ∧
    decode 0x003110A3#32 = .ok (.sh 2 3 1) ∧
    decode 0xFE312E23#32 = .ok (.sw 2 3 (-4)) := by decide
theorem test_decode_imm :
    decode 0x00100093#32 = .ok (.addi 1 0 1) ∧
    decode 0x80012093#32 = .ok (.slti 1 2 (-2048)) ∧
    decode 0xFFF13093#32 = .ok (.sltiu 1 2 (-1)) ∧
    decode 0xFFF14093#32 = .ok (.xori 1 2 (-1)) ∧
    decode 0x80016093#32 = .ok (.ori 1 2 (-2048)) ∧
    decode 0x0FF17093#32 = .ok (.andi 1 2 0xFF) := by decide
theorem test_decode_shift_imm :
    decode 0x01F11093#32 = .ok (.slli 1 2 31) ∧
    decode 0x01F15093#32 = .ok (.srli 1 2 31) ∧
    decode 0x40415093#32 = .ok (.srai 1 2 4) := by decide
theorem test_decode_op :
    decode 0x003100B3#32 = .ok (.add 1 2 3) ∧
    decode 0x403100B3#32 = .ok (.sub 1 2 3) ∧
    decode 0x003110B3#32 = .ok (.sll 1 2 3) ∧
    decode 0x003120B3#32 = .ok (.slt 1 2 3) ∧
    decode 0x003130B3#32 = .ok (.sltu 1 2 3) ∧
    decode 0x003140B3#32 = .ok (.xor 1 2 3) ∧
    decode 0x003150B3#32 = .ok (.srl 1 2 3) ∧
    decode 0x403150B3#32 = .ok (.sra 1 2 3) ∧
    decode 0x003160B3#32 = .ok (.or 1 2 3) ∧
    decode 0x003170B3#32 = .ok (.and 1 2 3) := by decide
theorem test_decode_fence :
    decode 0x8330000F#32 = .ok (.fence 8 3 3 0 0) ∧
    decode 0x0FF1008F#32 = .ok (.fence 0 15 15 2 1) ∧
    decode 0x0000100F#32 = .ok (.fenceI 0 0 0) := by decide
theorem test_decode_system :
    decode 0x00000073#32 = .ok .ecall ∧
    decode 0x00100073#32 = .ok .ebreak ∧
    decode 0x340312F3#32 = .ok (.csrrw 5 6 0x340) ∧
    decode 0xC0002573#32 = .ok (.csrrs 10 0 0xC00) ∧
    decode 0x3003B073#32 = .ok (.csrrc 0 7 0x300) ∧
    decode 0x340FD2F3#32 = .ok (.csrrwi 5 31 0x340) ∧
    decode 0x30046073#32 = .ok (.csrrsi 0 8 0x300) ∧
    decode 0x3000F0F3#32 = .ok (.csrrci 1 1 0x300) := by decide
theorem test_decode_unknown_opcode :
    decode 0x00000000#32 = .error .unknownOpcode ∧
    decode 0xFFFFFFFF#32 = .error .unknownOpcode ∧
    decode 0x0000000B#32 = .error .unknownOpcode ∧
    decode 0x0020A0AF#32 = .error .unknownOpcode := by decide
theorem test_decode_unknown_funct3 :
    decode 0x000290E7#32 = .error .unknownFunct3 ∧
    decode 0x00002463#32 = .error .unknownFunct3 ∧
    decode 0x00003463#32 = .error .unknownFunct3 ∧
    decode 0x00013083#32 = .error .unknownFunct3 ∧
    decode 0x00016083#32 = .error .unknownFunct3 ∧
    decode 0x00017083#32 = .error .unknownFunct3 ∧
    decode 0x00313023#32 = .error .unknownFunct3 ∧
    decode 0x00314023#32 = .error .unknownFunct3 ∧
    decode 0x0000200F#32 = .error .unknownFunct3 ∧
    decode 0x00004073#32 = .error .unknownFunct3 := by decide
theorem test_decode_unknown_funct7 :
    decode 0x40111093#32 = .error .unknownFunct7 ∧
    decode 0x02115093#32 = .error .unknownFunct7 ∧
    decode 0x02415093#32 = .error .unknownFunct7 ∧
    decode 0x02011093#32 = .error .unknownFunct7 ∧
    decode 0x403140B3#32 = .error .unknownFunct7 ∧
    decode 0x023160B3#32 = .error .unknownFunct7 ∧
    decode 0x403110B3#32 = .error .unknownFunct7 ∧
    decode 0x020000B3#32 = .error .unknownFunct7 ∧
    decode 0x000000F3#32 = .error .unknownFunct7 ∧
    decode 0x00008073#32 = .error .unknownFunct7 ∧
    decode 0x00200073#32 = .error .unknownFunct7 ∧
    decode 0x30200073#32 = .error .unknownFunct7 ∧
    decode 0x10200073#32 = .error .unknownFunct7 ∧
    decode 0x10500073#32 = .error .unknownFunct7 := by decide

/-- One word of each family written bit by bit from the formats R69 to R77 and the tables of R85 to R88. -/
theorem test_decode_bit_by_bit :
    decode 0b00010010001101000101_00101_0110111#32 = .ok (.lui 5 0x12345) ∧
    decode 0b1_1111111110_1_11111111_00001_1101111#32 = .ok (.jal 1 (-4)) ∧
    decode 0b111111111100_00101_000_00001_1100111#32 = .ok (.jalr 1 5 (-4)) ∧
    decode 0b1_111111_00010_00001_001_1100_1_1100011#32 = .ok (.bne 1 2 (-8)) ∧
    decode 0b111111111100_00010_010_00001_0000011#32 = .ok (.lw 1 2 (-4)) ∧
    decode 0b1111111_00011_00010_010_11100_0100011#32 = .ok (.sw 2 3 (-4)) ∧
    decode 0b000011111111_00010_111_00001_0010011#32 = .ok (.andi 1 2 0xFF) ∧
    decode 0b0100000_00100_00010_101_00001_0010011#32 = .ok (.srai 1 2 4) ∧
    decode 0b0100000_00011_00010_000_00001_0110011#32 = .ok (.sub 1 2 3) ∧
    decode 0b1000_0011_0011_00000_000_00000_0001111#32 = .ok (.fence 8 3 3 0 0) ∧
    decode 0b001101000000_00110_001_00101_1110011#32 = .ok (.csrrw 5 6 0x340) := by decide

/-- The encoder gives the same words. -/
theorem test_encode :
    encode (.lui 5 0x12345) = 0x123452B7#32 ∧ encode (.jal 1 (-4)) = 0xFFDFF0EF#32 ∧
    encode (.bne 1 2 (-8)) = 0xFE209CE3#32 ∧ encode (.sw 2 3 (-4)) = 0xFE312E23#32 ∧
    encode (.srai 1 2 4) = 0x40415093#32 ∧ encode (.fence 8 3 3 0 0) = 0x8330000F#32 ∧
    encode .ebreak = 0x00100073#32 := by decide

theorem test_decode_table_word :
    decodeTableWord 32 0x340312F3 = some (.csrrw 5 6 0x340) ∧ decodeTableWord 32 0 = none ∧
    decodeTableWord 7 0x37 = some (.lui 0 0) := by decide

/-! ## One step from a small state -/

/-- P of 95_test_vectors.md. -/
def testPc : Word := 0x80000100#32

/-- The reset state at pc `p`, with registers written and words stored (address, word), the word under test last. -/
def testAt (p w : Word) (rs : List (RegIdx × Word)) (ms : List (Nat × Word)) : State :=
  let s := rs.foldl (fun s r => s.setReg r.1 r.2) { State.reset with pc := p }
  ({ s with mem := ms.foldl (fun m c => m.writeLE c.1 4 c.2) s.mem } : State).withFetchWord 32 w.toNat

/-- The word under test at P. -/
def testState (w : Word) (rs : List (RegIdx × Word)) : State := testAt testPc w rs []

/-- The state M0 of 43_load_store.md, at P = 0x80000200. -/
def testM0 (w : Word) : State := testAt 0x80000200#32 w [(2, 0x80000100#32), (3, 0x12345678#32)] [(0x80000100, 0x1234FF80#32)]

/-- The state T of 95_test_vectors.md. -/
def testT (w x2 : Word) : State := testAt testPc w [(2, x2)] [(0x8000FFFC, 0xF4332211#32)]

/-- The state after one step; the state itself where the step answers no next one. -/
def testStep (s : State) : State :=
  match step s with
  | .next t => t
  | .fault _ => s
  | .refused _ => s

/-- One register, the pc and the outcome after one step. -/
def testAfter (s : State) (r : RegIdx) : Word × Word × StepOutcome :=
  ((testStep s).reg r, (testStep s).pc, (testStep s).outcome)

/-- V17. -/
theorem test_lui : testAfter (testState 0x123452B7#32 [(5, 0xDEADBEEF#32)]) 5 = (0x12345000#32, 0x80000104#32, .continue) := by decide
/-- V13. -/
theorem test_lui_x0 : testAfter (testState 0x12345037#32 []) 0 = (0x00000000#32, 0x80000104#32, .continue) := by decide
/-- V15. -/
theorem test_auipc_wraps : testAfter (testState 0x80000297#32 []) 5 = (0x00000100#32, 0x80000104#32, .continue) := by decide
/-- V16. -/
theorem test_auipc_negative : testAfter (testState 0xFFFFF297#32 []) 5 = (0x7FFFF100#32, 0x80000104#32, .continue) := by decide
/-- V8. -/
theorem test_jal_back : testAfter (testState 0xFFDFF0EF#32 []) 1 = (0x80000104#32, 0x800000FC#32, .continue) := by decide
/-- V22. -/
theorem test_jal_far : testAfter (testState 0x800000EF#32 []) 1 = (0x80000104#32, 0x7FF00100#32, .continue) := by decide
/-- V23. -/
theorem test_jalr_same_register : testAfter (testState 0x000080E7#32 [(1, 0x80000200#32)]) 1 = (0x80000104#32, 0x80000200#32, .continue) := by decide
/-- V25. -/
theorem test_jalr_keeps_bit0 : testAfter (testState 0x001280E7#32 [(5, 0x80000200#32)]) 1 = (0x80000104#32, 0x80000201#32, .continue) := by decide
/-- V29. -/
theorem test_beq_taken : testAfter (testState 0x80208063#32 [(1, 0x00000005#32), (2, 0x00000005#32)]) 1 = (0x00000005#32, 0x7FFFF100#32, .continue) := by decide
/-- R119. -/
theorem test_beq_not_taken : testAfter (testState 0x80208063#32 [(1, 0x00000005#32), (2, 0x00000006#32)]) 1 = (0x00000005#32, 0x80000104#32, .continue) := by decide
/-- V38. -/
theorem test_bne_taken : testAfter (testState 0xFE209CE3#32 [(1, 0x00000001#32), (2, 0x00000002#32)]) 1 = (0x00000001#32, 0x800000F8#32, .continue) := by decide
/-- V30. -/
theorem test_bne_not_taken : testAfter (testState 0x00109463#32 [(1, 0x00000007#32)]) 1 = (0x00000007#32, 0x80000104#32, .continue) := by decide
/-- V31. -/
theorem test_blt_signed : testAfter (testState 0x0020C463#32 [(1, 0x7FFFFFFF#32), (2, 0x80000000#32)]) 1 = (0x7FFFFFFF#32, 0x80000104#32, .continue) := by decide
/-- V39. -/
theorem test_blt_taken : testAfter (testState 0x0020C663#32 [(1, 0xFFFFFFFF#32), (2, 0x00000001#32)]) 1 = (0xFFFFFFFF#32, 0x8000010C#32, .continue) := by decide
/-- V33. -/
theorem test_bge_equal : testAfter (testState 0x0010D463#32 [(1, 0x00000003#32)]) 1 = (0x00000003#32, 0x80000108#32, .continue) := by decide
/-- V40. -/
theorem test_bge_not_taken : testAfter (testState 0x0020D663#32 [(1, 0xFFFFFFFF#32), (2, 0x00000001#32)]) 1 = (0xFFFFFFFF#32, 0x80000104#32, .continue) := by decide
/-- V32. -/
theorem test_bltu_taken : testAfter (testState 0x0020E463#32 [(1, 0x7FFFFFFF#32), (2, 0x80000000#32)]) 1 = (0x7FFFFFFF#32, 0x80000108#32, .continue) := by decide
/-- V41. -/
theorem test_bltu_not_taken : testAfter (testState 0x0020E663#32 [(1, 0xFFFFFFFF#32), (2, 0x00000001#32)]) 1 = (0xFFFFFFFF#32, 0x80000104#32, .continue) := by decide
/-- V42. -/
theorem test_bgeu_taken : testAfter (testState 0x0020F663#32 [(1, 0xFFFFFFFF#32), (2, 0x00000001#32)]) 1 = (0xFFFFFFFF#32, 0x8000010C#32, .continue) := by decide
/-- V34. -/
theorem test_bgeu_not_taken : testAfter (testState 0x00107463#32 [(1, 0x00000001#32)]) 1 = (0x00000001#32, 0x80000104#32, .continue) := by decide
/-- V67. -/
theorem test_addi_wraps : testAfter (testState 0x7FF10093#32 [(2, 0x7FFFFFFF#32)]) 1 = (0x800007FE#32, 0x80000104#32, .continue) := by decide
/-- V66. -/
theorem test_addi_negative : testAfter (testState 0x80010093#32 [(2, 0x00000000#32)]) 1 = (0xFFFFF800#32, 0x80000104#32, .continue) := by decide
/-- V70. -/
theorem test_slti_signed : testAfter (testState 0x80012093#32 [(2, 0x7FFFFFFF#32)]) 1 = (0x00000000#32, 0x80000104#32, .continue) := by decide
/-- R138. -/
theorem test_slti_true : testAfter (testState 0xFFF12093#32 [(2, 0x80000000#32)]) 1 = (0x00000001#32, 0x80000104#32, .continue) := by decide
/-- V71. -/
theorem test_sltiu_all_ones : testAfter (testState 0xFFF13093#32 [(2, 0xFFFFFFFF#32)]) 1 = (0x00000000#32, 0x80000104#32, .continue) := by decide
/-- R139. -/
theorem test_sltiu_true : testAfter (testState 0xFFF13093#32 [(2, 0xFFFFFFFE#32)]) 1 = (0x00000001#32, 0x80000104#32, .continue) := by decide
/-- R140. -/
theorem test_xori : testAfter (testState 0xFFF14093#32 [(2, 0x0F0F0F0F#32)]) 1 = (0xF0F0F0F0#32, 0x80000104#32, .continue) := by decide
/-- R141. -/
theorem test_ori : testAfter (testState 0x80016093#32 [(2, 0x00000001#32)]) 1 = (0xFFFFF801#32, 0x80000104#32, .continue) := by decide
/-- R142. -/
theorem test_andi : testAfter (testState 0x0FF17093#32 [(2, 0x12345678#32)]) 1 = (0x00000078#32, 0x80000104#32, .continue) := by decide
/-- R143. -/
theorem test_slli : testAfter (testState 0x01F11093#32 [(2, 0x00000001#32)]) 1 = (0x80000000#32, 0x80000104#32, .continue) := by decide
/-- R144. -/
theorem test_srli : testAfter (testState 0x00415093#32 [(2, 0x80000000#32)]) 1 = (0x08000000#32, 0x80000104#32, .continue) := by decide
/-- R145. -/
theorem test_srai : testAfter (testState 0x40415093#32 [(2, 0x80000000#32)]) 1 = (0xF8000000#32, 0x80000104#32, .continue) := by decide
/-- R146. -/
theorem test_add_wraps : testAfter (testState 0x003100B3#32 [(2, 0xFFFFFFFF#32), (3, 0x00000001#32)]) 1 = (0x00000000#32, 0x80000104#32, .continue) := by decide
/-- V97. -/
theorem test_add_same_register : testAfter (testState 0x00210133#32 [(2, 0x00000003#32)]) 2 = (0x00000006#32, 0x80000104#32, .continue) := by decide
/-- V86. -/
theorem test_sub : testAfter (testState 0x403100B3#32 [(2, 0x80000000#32), (3, 0x00000001#32)]) 1 = (0x7FFFFFFF#32, 0x80000104#32, .continue) := by decide
/-- R148. -/
theorem test_sll_low_five_bits : testAfter (testState 0x003110B3#32 [(2, 0x00000003#32), (3, 0x00000021#32)]) 1 = (0x00000006#32, 0x80000104#32, .continue) := by decide
/-- V88. -/
theorem test_sll_by_31 : testAfter (testState 0x003110B3#32 [(2, 0x00000001#32), (3, 0xFFFFFFFF#32)]) 1 = (0x80000000#32, 0x80000104#32, .continue) := by decide
/-- V93. -/
theorem test_slt_signed : testAfter (testState 0x003120B3#32 [(2, 0x80000000#32), (3, 0x7FFFFFFF#32)]) 1 = (0x00000001#32, 0x80000104#32, .continue) := by decide
/-- V94. -/
theorem test_sltu_unsigned : testAfter (testState 0x003130B3#32 [(2, 0x80000000#32), (3, 0x7FFFFFFF#32)]) 1 = (0x00000000#32, 0x80000104#32, .continue) := by decide
/-- R151. -/
theorem test_xor : testAfter (testState 0x003140B3#32 [(2, 0xFF00FF00#32), (3, 0x0FF00FF0#32)]) 1 = (0xF0F0F0F0#32, 0x80000104#32, .continue) := by decide
/-- R152. -/
theorem test_srl : testAfter (testState 0x003150B3#32 [(2, 0x80000000#32), (3, 0x0000001F#32)]) 1 = (0x00000001#32, 0x80000104#32, .continue) := by decide
/-- R153. -/
theorem test_sra : testAfter (testState 0x403150B3#32 [(2, 0x80000000#32), (3, 0xFFFFFFE1#32)]) 1 = (0xC0000000#32, 0x80000104#32, .continue) := by decide
/-- V90. -/
theorem test_sra_positive : testAfter (testState 0x403150B3#32 [(2, 0x7FFFFFFF#32), (3, 0x0000001F#32)]) 1 = (0x00000000#32, 0x80000104#32, .continue) := by decide
/-- R154. -/
theorem test_or : testAfter (testState 0x003160B3#32 [(2, 0xFF000000#32), (3, 0x000000FF#32)]) 1 = (0xFF0000FF#32, 0x80000104#32, .continue) := by decide
/-- R155. -/
theorem test_and : testAfter (testState 0x003170B3#32 [(2, 0xFF00FF00#32), (3, 0x0FF00FF0#32)]) 1 = (0x0F000F00#32, 0x80000104#32, .continue) := by decide
/-- V96. -/
theorem test_add_x0 : testAfter (testState 0x00310033#32 [(2, 0x00000001#32), (3, 0x00000002#32)]) 0 = (0x00000000#32, 0x80000104#32, .continue) := by decide
/-- V104. -/
theorem test_fence : testAfter (testState 0x0FF1008F#32 [(1, 0x00000009#32)]) 1 = (0x00000009#32, 0x80000104#32, .continue) := by decide
/-- R159. -/
theorem test_fence_i : testAfter (testState 0x0000100F#32 [(1, 0x00000009#32)]) 1 = (0x00000009#32, 0x80000104#32, .continue) := by decide
/-- V106. -/
theorem test_ecall : testAfter (testState 0x00000073#32 [(10, 0x00000009#32)]) 10 = (0x00000009#32, 0x80000104#32, .continue) := by decide
/-- V107. -/
theorem test_ebreak : testAfter (testState 0x00100073#32 [(10, 0x00000009#32)]) 10 = (0x00000009#32, 0x80000104#32, .continue) := by decide
/-- V111. -/
theorem test_csrrw : testAfter (testState 0x340312F3#32 [(5, 0x00000007#32), (6, 0x00000009#32)]) 5 = (0x00000007#32, 0x80000104#32, .continue) := by decide
/-- V112. -/
theorem test_csrrs : testAfter (testState 0xC0002573#32 [(10, 0xDEADBEEF#32)]) 10 = (0xDEADBEEF#32, 0x80000104#32, .continue) := by decide
/-- R166. -/
theorem test_csrrc : testAfter (testState 0x3003B073#32 [(7, 0x00000009#32)]) 7 = (0x00000009#32, 0x80000104#32, .continue) := by decide
/-- R167. -/
theorem test_csrrwi : testAfter (testState 0x340FD2F3#32 [(5, 0x00000007#32)]) 5 = (0x00000007#32, 0x80000104#32, .continue) := by decide
/-- R168. -/
theorem test_csrrsi : testAfter (testState 0x30046073#32 [(8, 0x00000007#32)]) 8 = (0x00000007#32, 0x80000104#32, .continue) := by decide
/-- R169. -/
theorem test_csrrci : testAfter (testState 0x3000F0F3#32 [(1, 0x00000007#32)]) 1 = (0x00000007#32, 0x80000104#32, .continue) := by decide
/-- R126. -/
theorem test_lb : testAfter (testM0 0x00010083#32) 1 = (0xFFFFFF80#32, 0x80000204#32, .continue) := by decide
/-- R127. -/
theorem test_lh_odd : testAfter (testM0 0x00111083#32) 1 = (0x000034FF#32, 0x80000204#32, .continue) := by decide
/-- R128. -/
theorem test_lw : testAfter (testM0 0x00012083#32) 1 = (0x1234FF80#32, 0x80000204#32, .continue) := by decide
/-- R129. -/
theorem test_lbu : testAfter (testM0 0x00014083#32) 1 = (0x00000080#32, 0x80000204#32, .continue) := by decide
/-- R130. -/
theorem test_lhu : testAfter (testM0 0x00315083#32) 1 = (0x00000012#32, 0x80000204#32, .continue) := by decide
/-- R128. -/
theorem test_lw_unaligned : testAfter (testM0 0x00212083#32) 1 =
    (0x00000000#32, 0x80000200#32, .halt (.fault .unaligned 0x80000200#32 (some 0x00212083#32))) := by decide
/-- V43. -/
theorem test_lb_last_byte : testAfter (testT 0xFFF10083#32 0x80010000#32) 1 = (0xFFFFFFF4#32, 0x80000104#32, .continue) := by decide
/-- V45. -/
theorem test_lh_past_end : testAfter (testT 0xFFF11083#32 0x80010000#32) 1 =
    (0x00000000#32, testPc, .halt (.fault .outOfBounds testPc (some 0xFFF11083#32))) := by decide
/-- V50, the unsigned form. -/
theorem test_lbu_below_base : testAfter (testT 0xFFF14083#32 0x80000000#32) 1 =
    (0x00000000#32, testPc, .halt (.fault .outOfBounds testPc (some 0xFFF14083#32))) := by decide
/-- V52, the halfword form. -/
theorem test_lhu_wraps_to_zero : testAfter (testT 0x00115083#32 0xFFFFFFFF#32) 1 =
    (0x00000000#32, testPc, .halt (.fault .outOfBounds testPc (some 0x00115083#32))) := by decide
/-- R132. -/
theorem test_sb : wordAt (testStep (testM0 0x00310023#32)) 0x80000100 = 0x1234FF78#32 := by decide
/-- R133. -/
theorem test_sh_odd : wordAt (testStep (testM0 0x003110A3#32)) 0x80000100 = 0x12567880#32 := by decide
/-- R134. -/
theorem test_sw : wordAt (testStep (testM0 0xFE312E23#32)) 0x800000FC = 0x12345678#32 := by decide
/-- R134. -/
theorem test_sw_unaligned : testAfter (testM0 0x00312123#32) 1 =
    (0x00000000#32, 0x80000200#32, .halt (.fault .unaligned 0x80000200#32 (some 0x00312123#32))) := by decide
/-- V59: not even the byte in bounds is written. -/
theorem test_sh_past_end :
    (testStep (testAt testPc 0xFE311FA3#32 [(2, 0x80010000#32), (3, 0x0000ABCD#32)] [])).outcome =
      .halt (.fault .outOfBounds testPc (some 0xFE311FA3#32)) ∧
    byteAt (testStep (testAt testPc 0xFE311FA3#32 [(2, 0x80010000#32), (3, 0x0000ABCD#32)] [])) 0x8000FFFF = 0#8 := by decide
/-- V58. -/
theorem test_sb_last_byte :
    byteAt (testStep (testAt testPc 0xFE310FA3#32 [(2, 0x80010000#32), (3, 0x000000AB#32)] [])) 0x8000FFFF = 0xAB#8 := by decide

/-! ## Fetch, sentinel, decode faults, the host interface -/

/-- V117: bounds win over alignment. -/
theorem test_fetch_past_end : (testStep { State.reset with pc := 0x8000FFFE#32 }).outcome =
    .halt (.fault .outOfBounds 0x8000FFFE#32 none) := by decide
/-- V119. -/
theorem test_fetch_unaligned : (testStep { State.reset with pc := 0x80000002#32 }).outcome =
    .halt (.fault .unaligned 0x80000002#32 none) := by decide
/-- V118: the last word of memory is fetched and the pc leaves the region. -/
theorem test_fetch_last_word : testAfter (testAt 0x8000FFFC#32 0x00000013#32 [] []) 0 =
    (0#32, 0x80010000#32, .continue) := by decide
/-- V74. -/
theorem test_zero_word : (testStep (testState 0x00000000#32 [])).outcome =
    .halt (.fault .unknownOpcode testPc (some 0x00000000#32)) := by decide
/-- V4. -/
theorem test_sentinel : testAfter (testState State.reset.config.sentinel [(5, 3#32)]) 5 =
    (3#32, testPc, .halt .success) := by decide
/-- V115: the sentinel test comes before decode. -/
theorem test_ecall_as_sentinel :
    (testStep { testState 0x00000073#32 [] with config := { State.reset.config with sentinel := 0x00000073#32 } }).outcome =
      .halt .success := by decide
/-- V11 and V25 with JALR_CLEARS_BIT0 = true. -/
theorem test_jalr_clears_bit0 :
    (testStep { testState 0x001280E7#32 [(5, 0x80000200#32)] with
      config := { State.reset.config with jalrClearsBit0 := true } }).pc = 0x80000200#32 := by decide
/-- V125: the halt is sticky. -/
theorem test_halt_is_sticky : testStep (testStep (testState 0x00000000#32 [])) = testStep (testState 0x00000000#32 []) := by
  decide
/-- V126: a reset makes the core run again, and leaves memory alone. -/
theorem test_reset_after_halt :
    (resetTo 0x80000004#32 State.reset.regs (testStep (testState 0x00000000#32 []))).outcome = .continue := by decide
/-- V1: the bytes in the source's order. -/
theorem test_load_segment_then_step :
    (match loadSegment [0x93#8, 0x00#8, 0x10#8, 0x00#8] 0x80000000 State.reset with
      | .next s => testAfter s 1
      | .fault _ => testAfter State.reset 1
      | .refused _ => testAfter State.reset 1) = (1#32, 0x80000004#32, .continue) := by decide
/-- V123 and V124. -/
theorem test_run_budget :
    (match run 1 (testState State.reset.config.sentinel []) with
      | .next (_, r) => some r
      | .fault _ => none
      | .refused _ => none) = some .success ∧
    (match run 0 (testState State.reset.config.sentinel []) with
      | .next (s, r) => some (s.status, r)
      | .fault _ => none
      | .refused _ => none) = some (.running, .budgetExceeded) := by decide
/-- R25 and R40: 33 words, the pc last. -/
theorem test_snapshot : (testState 0#32 [(31, 7#32)]).snapshot[31] = 7#32 ∧ (testState 0#32 []).snapshot[32] = testPc ∧
    (testState 0#32 []).snapshot[0] = 0#32 := by decide
/-- R171: the code numbers. -/
theorem test_fault_codes : [FaultKind.outOfBounds, .unaligned, .unknownOpcode, .unknownFunct3, .unknownFunct7].map faultCode =
    [1, 2, 3, 4, 5] := by decide

/-! ## Witnesses: for each statement with hypotheses, states and operands that meet them, each clause at its boundary -/

theorem testStep_next {s : State} (h : s.lifecycle ≠ .created) : step s = .next (testStep s) := by
  obtain ⟨t, ht⟩ := step_next h
  simp [testStep, ht]

/-- The state after one instruction. -/
def testExec (i : Instr) (s : State) : State :=
  match exec i s with
  | .next t => t
  | .fault _ => s
  | .refused _ => s

theorem testExec_next (i : Instr) (s : State) : exec i s = .next (testExec i s) := by
  obtain ⟨t, ht⟩ := exec_next i s
  simp [testExec, ht]

/-- A state that has not halted is legal when its parts are. -/
theorem testLegal {s : State} (hc : s.config.wf) (hw : s.mem.wf)
    (hm : ∀ c ∈ s.mem, s.config.base ≤ c.1 ∧ c.1 < s.config.base + s.config.size) (h0 : s.regs[0] = 0#32)
    (hs : s.status = .running) : Legal s :=
  ⟨hc, hw, hm, h0, fun h => absurd hs h, fun h => absurd hs h⟩

/-- An ADDI at P, one register and one memory word set. -/
def witAddi : State := testAt testPc 0x00100093#32 [(2, 5#32)] [(0x80000200, 0x12345678#32)]
/-- A SW at P. -/
def witSw : State := testState 0x00312023#32 [(2, 0x8000FFFC#32), (3, 0x00000013#32)]
/-- A word that decodes to nothing at P. -/
def witBad : State := testState 0#32 []
/-- The sentinel at P. -/
def witSentinel : State := testState State.reset.config.sentinel []
/-- An LW at P whose data access is past the end. -/
def witFault : State := testT 0x00012083#32 0x80010000#32
/-- The reset state with another pc. -/
def witPc (p : Word) : State := { State.reset with pc := p }

theorem witness_legal : Legal witAddi ∧ Legal witSw ∧ Legal witBad ∧ Legal witSentinel ∧ Legal witFault :=
  ⟨testLegal (by decide) (by decide) (by decide) (by decide) rfl, testLegal (by decide) (by decide) (by decide) (by decide) rfl,
    testLegal (by decide) (by decide) (by decide) (by decide) rfl, testLegal (by decide) (by decide) (by decide) (by decide) rfl,
    testLegal (by decide) (by decide) (by decide) (by decide) rfl⟩

theorem witness_ResetSetsPcAndStatusAndKeepsMemory :
    (31#5 ≠ 0#5) ∧ ¬ Mapped State.reset 0x8000FFFD#32 4 ∧ ¬ Mapped State.reset 0x7FFFFFFF#32 4 ∧
    (Mapped State.reset 0x8000FFFA#32 4 ∧ ¬ WordAligned 0x8000FFFA#32) ∧
    (Mapped State.reset 0x80000001#32 4 ∧ ¬ WordAligned 0x80000001#32) := by decide

/-- BASE + SIZE = 2^32 is allowed, 2^32 + 1 is not; SIZE = 0 is not; the sentinel must be a SYSTEM word. -/
theorem witness_CreateZeroFillsMemoryOrRefuses :
    (⟨0xFFFF0000, 0x10000, 0x00000073#32, true⟩ : Config).wf ∧ ¬ (⟨0xFFFF0001, 0x10000, 0x00000073#32, true⟩ : Config).wf ∧
    ¬ (⟨0x80000000, 0, 0x00000073#32, true⟩ : Config).wf ∧ (⟨0, 1, 0x00000073#32, true⟩ : Config).wf ∧
    ¬ (⟨0x80000000, 0x10000, 0x00000013#32, true⟩ : Config).wf := by decide

theorem witness_StepAndRunRefusedBeforeFirstReset :
    ∃ s, create State.reset.config State.reset.regs 0#32 = .next s ∧ s.lifecycle = .created := ⟨_, rfl, rfl⟩

/-- A segment that ends at BASE + SIZE fits; one byte more, or one byte below BASE, does not. -/
theorem witness_LoadSegmentCopiesEveryByteOrFails :
    State.reset.mem.wf ∧ State.reset.lifecycle ≠ .started ∧
    0x8000FFFF + [1#8, 2#8].length > State.reset.config.base + State.reset.config.size ∧
    0x7FFFFFFF < State.reset.config.base ∧
    (State.reset.config.base ≤ 0x8000FFFE ∧
      0x8000FFFE + [1#8, 2#8].length ≤ State.reset.config.base + State.reset.config.size) ∧
    (State.reset.config.base ≤ 0x80000000 ∧
      0x80000000 + [1#8].length ≤ State.reset.config.base + State.reset.config.size) := by decide

theorem witness_HostWriteRefusedAfterAStep : Legal witAddi ∧ step witAddi = .next (testStep witAddi) :=
  ⟨witness_legal.1, testStep_next (by decide)⟩

theorem witness_HaltedCoreStaysHaltedUntilReset :
    ((testStep witBad).lifecycle ≠ .created ∧
      (testStep witBad).status = .halted (.fault .unknownOpcode testPc (some 0#32))) ∧
    (∃ t, loadSegment [1#8] 0x80000000 { State.reset with status := .halted .success } = .next t) := ⟨by decide, _, rfl⟩

theorem witness_FetchFaultsOrReadsTheWordAtPc :
    (Runnable (witPc 0x8000FFFD#32) ∧ ¬ Mapped (witPc 0x8000FFFD#32) 0x8000FFFD#32 4) ∧
    (Runnable (witPc 0x7FFFFFFF#32) ∧ ¬ Mapped (witPc 0x7FFFFFFF#32) 0x7FFFFFFF#32 4) ∧
    (Runnable (witPc 0x8000FFFB#32) ∧ Mapped (witPc 0x8000FFFB#32) 0x8000FFFB#32 4 ∧ ¬ WordAligned 0x8000FFFB#32) ∧
    (Runnable (witPc 0x8000FFFC#32) ∧ Mapped (witPc 0x8000FFFC#32) 0x8000FFFC#32 4 ∧ WordAligned 0x8000FFFC#32) ∧
    (Runnable (witPc 0x80000000#32) ∧ Mapped (witPc 0x80000000#32) 0x80000000#32 4 ∧ WordAligned 0x80000000#32) := by
  decide

theorem witness_SentinelHaltsWithoutAnyWrite :
    Runnable witSentinel ∧ Mapped witSentinel witSentinel.pc 4 ∧ WordAligned witSentinel.pc ∧
    wordAt witSentinel witSentinel.pc.toNat = witSentinel.config.sentinel := by decide

/-- One word for each kind the decoder answers. -/
theorem witness_DecodeFaultHaltsAndMutatesNothing :
    (Runnable witBad ∧ Mapped witBad witBad.pc 4 ∧ WordAligned witBad.pc ∧
      wordAt witBad witBad.pc.toNat ≠ witBad.config.sentinel) ∧
    decode (wordAt witBad witBad.pc.toNat) = .error .unknownOpcode ∧
    decode (wordAt (testState 0x0000200F#32 []) testPc.toNat) = .error .unknownFunct3 ∧
    decode (wordAt (testState 0x40111093#32 []) testPc.toNat) = .error .unknownFunct7 := by decide

theorem witness_StepRunsTheDecodedInstruction :
    Runnable witAddi ∧ Mapped witAddi witAddi.pc 4 ∧ WordAligned witAddi.pc ∧
    wordAt witAddi witAddi.pc.toNat ≠ witAddi.config.sentinel ∧
    decode (wordAt witAddi witAddi.pc.toNat) = .ok (.addi 1 0 1) := by decide

/-- Each branch of the order is taken by some runnable state. -/
theorem witness_StepOutcomeFollowsThePriorityOrder :
    (Runnable (witPc 0x8000FFFE#32) ∧ ¬ Mapped (witPc 0x8000FFFE#32) 0x8000FFFE#32 4 ∧ ¬ WordAligned 0x8000FFFE#32) ∧
    Runnable (witPc 0x80000002#32) ∧ Runnable witSentinel ∧ Runnable witBad ∧ Runnable witAddi ∧ Runnable witFault ∧
    ¬ Mapped witFault (witFault.reg 2) 4 := by decide

theorem witness_OnlyAlignedPcsComplete :
    (Runnable (testState 0x002000EF#32 []) ∧
      step (testState 0x002000EF#32 []) = .next (testStep (testState 0x002000EF#32 [])) ∧
      (testStep (testState 0x002000EF#32 [])).outcome = .continue ∧
      Mapped (testStep (testState 0x002000EF#32 [])) (testStep (testState 0x002000EF#32 [])).pc 4 ∧
      ¬ WordAligned (testStep (testState 0x002000EF#32 [])).pc) ∧
    (Runnable (testState 0x800000EF#32 []) ∧
      step (testState 0x800000EF#32 []) = .next (testStep (testState 0x800000EF#32 [])) ∧
      (testStep (testState 0x800000EF#32 [])).outcome = .continue ∧
      ¬ Mapped (testStep (testState 0x800000EF#32 [])) (testStep (testState 0x800000EF#32 [])).pc 4) :=
  ⟨⟨by decide, testStep_next (by decide), by decide, by decide, by decide⟩,
    ⟨by decide, testStep_next (by decide), by decide, by decide⟩⟩

theorem witness_DecodeOfEncodeIsTheInstruction :
    (Instr.jal 31 0x0FFFFE).wf = true ∧ (Instr.beq 31 31 0x1000).wf = true ∧ (Instr.lui 0 0xFFFFF).wf = true := by decide

theorem witness_EncodeOfDecodeIsTheWord :
    decode 0xFFFFF0EF#32 = .ok (.jal 1 0x1FFFFE) ∧ decode 0xFFFFFFB7#32 = .ok (.lui 31 0xFFFFF) := by decide

theorem witness_DecoderAgreesWithTheOpcodeTable :
    decode 0x40415093#32 = .ok (.srai 1 2 4) ∧ (Instr.srai 0 0 0).row ∈ opcodeTable ∧
    0x40415093#32 &&& (Instr.srai 0 0 0).row.mask = (Instr.srai 0 0 0).row.bits := by decide

theorem witness_AluClassDecodeFaults :
    (0x40111093#32).extractLsb' 0 7 = 0b0010011#7 ∧ (0x023160B3#32).extractLsb' 0 7 = 0b0110011#7 := by decide

/-- MRET and SYSTEM funct3 100 at P. -/
theorem witness_OtherSystemWordsFault :
    (Runnable (testState 0x30200073#32 []) ∧ Mapped (testState 0x30200073#32 []) testPc 4 ∧ WordAligned testPc ∧
      wordAt (testState 0x30200073#32 []) testPc.toNat = 0x30200073#32 ∧
      0x30200073#32 ≠ State.reset.config.sentinel ∧ (0x30200073#32).extractLsb' 0 7 = 0b1110011#7 ∧
      (0x30200073#32).extractLsb' 12 3 = 0b000#3) ∧
    (Runnable (testState 0x00004073#32 []) ∧ Mapped (testState 0x00004073#32 []) testPc 4 ∧
      wordAt (testState 0x00004073#32 []) testPc.toNat = 0x00004073#32 ∧
      0x00004073#32 ≠ State.reset.config.sentinel ∧ (0x00004073#32).extractLsb' 0 7 = 0b1110011#7 ∧
      (0x00004073#32).extractLsb' 12 3 = 0b100#3) := by decide

theorem witness_XZeroReadsZeroAndDiscardsWrites : (1#5 ≠ 0#5) ∧ (31#5 ≠ 1#5) := by decide

theorem witness_OnlyTheDestinationRegisterChanges :
    exec (.addi 1 0 1) State.reset = .next (testExec (.addi 1 0 1) State.reset) ∧
    (testExec (.addi 1 0 1) State.reset).reg 1 ≠ State.reset.reg 1 := ⟨testExec_next .., by decide⟩

theorem witness_OnlyStoresChangeMemory :
    State.reset.mem.wf ∧ exec (.sh 2 3 (-1)) witSw = .next (testExec (.sh 2 3 (-1)) witSw) ∧
    byteAt (testExec (.sh 2 3 (-1)) witSw) 0x8000FFFB ≠ byteAt witSw 0x8000FFFB := ⟨by decide, testExec_next .., by decide⟩

theorem witness_ConfigurationNeverChanges :
    step witSw = .next (testStep witSw) ∧ ∃ t, loadSegment [1#8] 0x80000000 State.reset = .next t :=
  ⟨testStep_next (by decide), _, rfl⟩

/-- An instruction that completes, one that faults out of bounds, one that faults unaligned. -/
theorem witness_OnlyDataAccessesFaultInExecution :
    exec .ecall witSw = .next (testExec .ecall witSw) ∧
    (exec (.lw 1 2 4) witSw = .next (testExec (.lw 1 2 4) witSw) ∧
      (testExec (.lw 1 2 4) witSw).status ≠ witSw.status) ∧
    (exec (.sw 2 3 (-2)) witSw = .next (testExec (.sw 2 3 (-2)) witSw) ∧
      (testExec (.sw 2 3 (-2)) witSw).status ≠ witSw.status) :=
  ⟨testExec_next .., ⟨testExec_next .., by decide⟩, ⟨testExec_next .., by decide⟩⟩

/-- The last address of each width, and the first one past it; a word in bounds and not aligned. -/
theorem witness_MemoryAccessesCheckBoundsThenAlignment :
    State.reset.mem.wf ∧
    (¬ Mapped State.reset 0x80010000#32 Width.byte.bytes ∧ ¬ Mapped State.reset 0x7FFFFFFF#32 Width.byte.bytes) ∧
    ¬ Mapped State.reset 0x8000FFFF#32 Width.half.bytes ∧ ¬ Mapped State.reset 0x8000FFFD#32 Width.word.bytes ∧
    (Mapped State.reset 0x8000FFFA#32 Width.word.bytes ∧ ¬ WordAligned 0x8000FFFA#32) ∧
    Mapped State.reset 0x8000FFFF#32 Width.byte.bytes ∧ Mapped State.reset 0x8000FFFE#32 Width.half.bytes ∧
    Mapped State.reset 0x80000001#32 Width.half.bytes ∧
    (Mapped State.reset 0x8000FFFC#32 Width.word.bytes ∧ WordAligned 0x8000FFFC#32) := by decide

theorem witness_MixedWidthAccessesAgree :
    State.reset.mem.wf ∧ (WordAligned 0x8000FFFC#32 ∧ Mapped State.reset 0x8000FFFC#32 4) ∧
    (WordAligned 0x80000000#32 ∧ Mapped State.reset 0x80000000#32 4) := by decide

/-- SW x3, 0(x2) at P stores the word of ADDI x0, x0, 0 at P + 4. -/
theorem witness_StoredWordIsExecutedNext :
    let s := testState 0x00312023#32 [(2, 0x80000104#32), (3, 0x00000013#32)]
    s.mem.wf ∧ Runnable s ∧ s.reg 2 + (0#12).signExtend 32 = s.pc + 4#32 ∧ Mapped s (s.pc + 4#32) 4 ∧
    WordAligned (s.pc + 4#32) ∧ s.reg 3 ≠ s.config.sentinel ∧ decode (s.reg 3) = .ok (.addi 0 0 0) := by decide

/-- V21 and V22: a JAL to a misaligned, and to an unmapped, target. -/
theorem witness_JalLinksAndJumpsRelative :
    let t := testExec (.jal 1 2) (witPc testPc)
    let u := testExec (.jal 1 (-0x100000)) (witPc testPc)
    (Runnable t ∧ Mapped t t.pc 4 ∧ ¬ WordAligned t.pc) ∧ (Runnable u ∧ ¬ Mapped u u.pc 4) := by decide

/-- V26 and V25: a JALR to an unmapped, and to a misaligned, target. -/
theorem witness_JalrLinksAndJumpsThroughTheOldRegister :
    let t := testExec (.jalr 1 0 (-1)) (witPc testPc)
    let u := testExec (.jalr 1 5 1) ((witPc testPc).setReg 5 0x80000200#32)
    ((1#3 ≠ 0b000#3) ∧ (7#3 ≠ 0b000#3)) ∧ (Runnable t ∧ ¬ Mapped t t.pc 4) ∧
    (Runnable u ∧ Mapped u u.pc 4 ∧ ¬ WordAligned u.pc) := by decide

/-- V35 and V29: a taken branch to a misaligned, and to an unmapped, target. -/
theorem witness_BeqAndBneBranchOnEquality :
    let t := testExec (.beq 0 0 2) (witPc testPc)
    let u := testExec (.beq 1 2 (-4096)) (witPc testPc)
    (Runnable t ∧ Mapped t t.pc 4 ∧ ¬ WordAligned t.pc) ∧ (Runnable u ∧ ¬ Mapped u u.pc 4) := by decide

theorem witness_BltAndBgeBranchOnSignedOrder :
    let t := testExec (.bge 0 0 2) (witPc testPc)
    let u := testExec (.bge 0 0 (-4096)) (witPc testPc)
    (Runnable t ∧ Mapped t t.pc 4 ∧ ¬ WordAligned t.pc) ∧ (Runnable u ∧ ¬ Mapped u u.pc 4) := by decide

theorem witness_BltuAndBgeuBranchOnUnsignedOrder :
    let t := testExec (.bgeu 0 0 2) (witPc testPc)
    let u := testExec (.bgeu 0 0 (-4096)) (witPc testPc)
    (Runnable t ∧ Mapped t t.pc 4 ∧ ¬ WordAligned t.pc) ∧ (Runnable u ∧ ¬ Mapped u u.pc 4) := by decide

/-- x2 is BASE + SIZE - 4: the last byte is at offset 3, the next one is out of bounds. -/
theorem witness_ByteLoadsExtendOrFault :
    Mapped witSw (witSw.reg 2 + (3#12).signExtend 32) 1 ∧ ¬ Mapped witSw (witSw.reg 2 + (4#12).signExtend 32) 1 ∧
    ¬ Mapped State.reset (State.reset.reg 0 + ((-1 : BitVec 12)).signExtend 32) 1 := by decide

theorem witness_HalfwordLoadsExtendOrFault :
    Mapped witSw (witSw.reg 2 + (1#12).signExtend 32) 2 ∧ Mapped witSw (witSw.reg 2 + (2#12).signExtend 32) 2 ∧
    ¬ Mapped witSw (witSw.reg 2 + (3#12).signExtend 32) 2 := by decide

theorem witness_LwLoadsTheWordOrFaults :
    (Mapped witSw (witSw.reg 2 + (0#12).signExtend 32) 4 ∧ WordAligned (witSw.reg 2 + (0#12).signExtend 32)) ∧
    ¬ Mapped witSw (witSw.reg 2 + (1#12).signExtend 32) 4 ∧ ¬ Mapped witSw (witSw.reg 2 + (4#12).signExtend 32) 4 ∧
    (Mapped witSw (witSw.reg 2 + (-1 : BitVec 12).signExtend 32) 4 ∧
      ¬ WordAligned (witSw.reg 2 + (-1 : BitVec 12).signExtend 32)) := by decide

theorem witness_SbStoresOneByteOrFaults :
    witSw.mem.wf ∧ Mapped witSw (witSw.reg 2 + (3#12).signExtend 32) 1 ∧
    ¬ Mapped witSw (witSw.reg 2 + (4#12).signExtend 32) 1 := by decide

theorem witness_ShStoresTwoBytesOrFaults :
    witSw.mem.wf ∧ Mapped witSw (witSw.reg 2 + (1#12).signExtend 32) 2 ∧
    Mapped witSw (witSw.reg 2 + (2#12).signExtend 32) 2 ∧ ¬ Mapped witSw (witSw.reg 2 + (3#12).signExtend 32) 2 := by decide

theorem witness_SwStoresFourBytesOrFaults :
    witSw.mem.wf ∧ (Mapped witSw (witSw.reg 2 + (0#12).signExtend 32) 4 ∧
      WordAligned (witSw.reg 2 + (0#12).signExtend 32)) ∧
    ¬ Mapped witSw (witSw.reg 2 + (1#12).signExtend 32) 4 ∧
    (Mapped witSw (witSw.reg 2 + (-2 : BitVec 12).signExtend 32) 4 ∧
      ¬ WordAligned (witSw.reg 2 + (-2 : BitVec 12).signExtend 32)) := by decide

theorem witness_ShiftImmediatesWriteTheShiftedValue : (1#7 ≠ 0b0000000#7 ∧ 1#7 ≠ 0b0100000#7) ∧ 0b0100000#7 ≠ 0b0000000#7 := by
  decide

/-- ECALL, and EBREAK, with SENTINEL_WORD equal to the word. -/
theorem witness_EcallEbreakOnlyAdvanceThePc :
    let s := { testState 0x00000073#32 [] with config := { State.reset.config with sentinel := 0x00000073#32 } }
    let t := { testState 0x00100073#32 [] with config := { State.reset.config with sentinel := 0x00100073#32 } }
    (Runnable s ∧ Mapped s s.pc 4 ∧ WordAligned s.pc ∧ wordAt s s.pc.toNat = 0x00000073#32 ∧
      wordAt s s.pc.toNat = s.config.sentinel) ∧
    (Runnable t ∧ Mapped t t.pc 4 ∧ WordAligned t.pc ∧ wordAt t t.pc.toNat = 0x00100073#32 ∧
      wordAt t t.pc.toNat = t.config.sentinel) := by decide

/-- A step that continues, one that stores, a decode fault, the sentinel, a data fault. -/
theorem witness_StepKeepsTheInvariant :
    (Legal witAddi ∧ step witAddi = .next (testStep witAddi) ∧ (testStep witAddi).outcome = .continue) ∧
    (Legal witSw ∧ step witSw = .next (testStep witSw) ∧ (testStep witSw).outcome = .continue) ∧
    (Legal witBad ∧ step witBad = .next (testStep witBad) ∧
      (testStep witBad).outcome = .halt (.fault .unknownOpcode testPc (some 0#32))) ∧
    (Legal witSentinel ∧ step witSentinel = .next (testStep witSentinel) ∧
      (testStep witSentinel).outcome = .halt .success) ∧
    (Legal witFault ∧ step witFault = .next (testStep witFault) ∧
      (testStep witFault).outcome = .halt (.fault .outOfBounds testPc (some 0x00012083#32))) :=
  ⟨⟨witness_legal.1, testStep_next (by decide), by decide⟩, ⟨witness_legal.2.1, testStep_next (by decide), by decide⟩,
    ⟨witness_legal.2.2.1, testStep_next (by decide), by decide⟩,
    ⟨witness_legal.2.2.2.1, testStep_next (by decide), by decide⟩,
    ⟨witness_legal.2.2.2.2, testStep_next (by decide), by decide⟩⟩

theorem witness_HostInterfaceKeepsTheInvariant :
    (∃ s, create State.reset.config State.reset.regs 0#32 = .next s) ∧
    (Legal witAddi ∧ ∃ t, loadSegment [1#8, 0#8] 0x8000FFFE witAddi = .next t) := ⟨⟨_, rfl⟩, witness_legal.1, _, rfl⟩

theorem witness_StepChangesOneRegisterAndFourBytesAtMost :
    (witAddi.mem.wf ∧ step witAddi = .next (testStep witAddi) ∧ (testStep witAddi).outcome = .continue) ∧
    (witSw.mem.wf ∧ step witSw = .next (testStep witSw) ∧ (testStep witSw).outcome = .continue) ∧
    (witSentinel.mem.wf ∧ step witSentinel = .next (testStep witSentinel) ∧
      (testStep witSentinel).outcome = .halt .success) :=
  ⟨⟨by decide, testStep_next (by decide), by decide⟩, ⟨by decide, testStep_next (by decide), by decide⟩,
    ⟨by decide, testStep_next (by decide), by decide⟩⟩

theorem witness_RunIsIteratedStep : witAddi.lifecycle ≠ .created ∧ (testStep witBad).lifecycle ≠ .created := by decide

theorem witness_RunContinuesAfterBudgetExceeded : run 1 witAddi = .next (testStep witAddi, .budgetExceeded) := by
  have h := testStep_next (s := witAddi) (by decide)
  have ho : (testStep witAddi).outcome = .continue := by decide
  show runLoop 1 witAddi = _
  simp [runLoop, h, ho]

end Sys2Proof.Tests
end

/-! SUPPORT. Scope (00_scope.md): the parameters of an instance are fixed for its life (R7, R8). -/

namespace Sys2Proof.Machine

/-- The inversion lemma of `loadSegment` (R49, R193): a load that answers a next state came before the first step, lies
inside the memory region, and changes memory only. -/
theorem loadSegment_inv {data : List Byte} {address : Nat} {s t : State} (h : loadSegment data address s = .next t) :
    s.lifecycle ≠ .started ∧ s.config.base ≤ address ∧
      address + data.length ≤ s.config.base + s.config.size ∧
      t = { s with mem := s.mem.writeBytes address data } := by
  unfold loadSegment at h
  split at h
  case h_1 => cases h
  case h_2 hl =>
    split at h
    case isTrue => cases h
    case isFalse hb =>
      cases h
      exact ⟨hl, by omega, by omega, rfl⟩

/-- No step touches the configuration (R7, R8). -/
theorem step_config {s t : State} (h : step s = .next t) : t.config = s.config := by
  rcases step_cases h with ⟨_, _, rfl⟩ | ⟨_, r, _, rfl⟩ | ⟨_, i, _, he⟩
  · rfl
  · exact (halt_config ..).trans (start_config s)
  · exact (exec_config he).1.trans (start_config s)

/-- No load of a segment touches the configuration (R7, R8). -/
theorem loadSegment_config {data : List Byte} {address : Nat} {s t : State}
    (h : loadSegment data address s = .next t) : t.config = s.config := by
  obtain ⟨_, _, _, rfl⟩ := loadSegment_inv h
  rfl

@[simp] theorem resetTo_config (entry : Word) (draw : Vector Word 32) (s : State) :
    (resetTo entry draw s).config = s.config := rfl

/-- Settles O26, one frame lemma per operation: the step (by its inversion lemma), the load and the reset. -/
theorem configurationNeverChanges : Obligations.ConfigurationNeverChanges := fun s _ =>
  ⟨step_config, fun _ _ => loadSegment_config, fun entry draw => resetTo_config entry draw s⟩

end Sys2Proof.Machine

/-! SUPPORT. State (10_state.md): the register file (R26, R27), the pc (R32, R33), and the invariant of legal states with
the step that keeps it (R37, R43, R106, R175). -/

namespace Sys2Proof.Machine

/-! ## The register file -/

/-- Settles O23: x0 by its two rules, every other register by what a read after a write gives. -/
theorem xZeroReadsZeroAndDiscardsWrites : Obligations.XZeroReadsZeroAndDiscardsWrites := by
  intro s v
  refine ⟨reg_zero s, setReg_zero s v, fun _ => reg_zero _, fun i hi => ⟨?_, fun j hj => ?_⟩⟩
  · rw [reg_setReg, if_neg hi, if_pos rfl]
  · by_cases h0 : j = 0#5
    · subst h0; simp only [reg_zero]
    · rw [reg_setReg, if_neg h0, if_neg hj]

/-- A register that is not the destination of the instruction reads as before (R27). -/
theorem exec_reg_of_not_dest {i : Instr} {s t : State} (h : exec i s = .next t) {r : RegIdx}
    (hr : destOf i ≠ some r) : t.reg r = s.reg r := by
  cases exec_cases h with
  | write rd v p hd _ ht =>
    have hne : r ≠ rd := fun e => hr (e ▸ hd)
    subst ht
    by_cases h0 : r = 0#5
    · subst h0; simp only [reg_zero]
    · rw [setPc_reg, reg_setReg, if_neg h0, if_neg hne]
  | jump _ _ _ _ ht => subst ht; rfl
  | store _ _ _ _ _ _ ht => subst ht; rfl
  | fault _ _ _ _ ht => subst ht; rfl

/-- Settles O24: x0 reads 0 in both states, and any other register that changed is the destination. -/
theorem onlyTheDestinationRegisterChanges : Obligations.OnlyTheDestinationRegisterChanges := by
  intro i s t h r hne
  refine ⟨fun h0 => hne ?_, not_imp_comm.1 (exec_reg_of_not_dest h) hne⟩
  subst h0; simp only [reg_zero]

/-- The stored x0 is left alone by every instruction (R26). -/
theorem exec_entry_zero {i : Instr} {s t : State} (h : exec i s = .next t) : t.regs[0] = s.regs[0] := by
  cases exec_cases h with
  | write rd v _ _ _ ht => subst ht; exact setReg_entry_zero s rd v
  | jump _ _ _ _ ht => subst ht; rfl
  | store _ _ _ _ _ _ ht => subst ht; rfl
  | fault _ _ _ _ ht => subst ht; rfl

/-- The stored x0 is left alone by every step (R26). -/
theorem step_entry_zero {s t : State} (h : step s = .next t) : t.regs[0] = s.regs[0] := by
  rcases step_cases h with ⟨_, _, rfl⟩ | ⟨_, _, _, rfl⟩ | ⟨_, _, _, he⟩
  · rfl
  · rfl
  · exact exec_entry_zero (s := s.start) he

/-! ## The memory array -/

/-- What an instruction does to memory: nothing, or one little-endian store inside the region (R48, R52). -/
theorem exec_mem_cases {i : Instr} {s t : State} (h : exec i s = .next t) :
    t.mem = s.mem ∨
      ∃ (a : Word) (w : Width) (v : Word), Mapped s a w.bytes ∧ t.mem = s.mem.writeLE a.toNat w.bytes v := by
  cases exec_cases h with
  | write _ _ _ _ _ ht => subst ht; exact .inl (setReg_mem ..)
  | jump _ _ _ _ ht => subst ht; exact .inl rfl
  | store w v _ _ _ hf ht => subst ht; exact .inr ⟨_, w, v, ((accessFault_none ..).1 hf).1, rfl⟩
  | fault _ _ _ _ ht => subst ht; exact .inl rfl

/-- What a step does to memory: nothing, or one little-endian store inside the region (R48, R52). -/
theorem step_mem_cases {s t : State} (h : step s = .next t) :
    t.mem = s.mem ∨
      ∃ (a : Word) (w : Width) (v : Word), Mapped s a w.bytes ∧ t.mem = s.mem.writeLE a.toNat w.bytes v := by
  rcases step_cases h with ⟨_, _, rfl⟩ | ⟨_, _, _, rfl⟩ | ⟨_, _, _, he⟩
  · exact .inl rfl
  · exact .inl rfl
  · exact exec_mem_cases (s := s.start) he

/-- A step keeps the canonical form of memory. -/
theorem step_mem_wf {s t : State} (h : step s = .next t) (hm : s.mem.wf) : t.mem.wf := by
  rcases step_mem_cases h with e | ⟨_, _, _, _, e⟩
  · exact e ▸ hm
  · exact e ▸ Memory.writeLE_wf hm _ _ _

/-- A step lists no address outside the region (R43, R46). -/
theorem step_mem_mapped {s t : State} (h : step s = .next t)
    (hm : ∀ c ∈ s.mem, s.config.base ≤ c.1 ∧ c.1 < s.config.base + s.config.size) :
    ∀ c ∈ t.mem, t.config.base ≤ c.1 ∧ c.1 < t.config.base + t.config.size := by
  intro c hc
  rw [step_config h]
  rcases step_mem_cases h with e | ⟨a, w, v, ⟨hlo, hhi⟩, e⟩
  · exact hm c (e ▸ hc)
  · rcases Memory.mem_writeLE (e ▸ hc) with hold | ⟨hge, hlt⟩
    · exact hm c hold
    · exact ⟨hlo.trans hge, hlt.trans_le hhi⟩

/-! ## Starting and halting -/

/-- A core that has already stepped has nothing left to start (R193). -/
theorem start_of_started {s : State} (h : s.lifecycle = .started) : s.start = s := by
  rw [State.start, ← h]

/-- Clearing the halt of a running core gives the core back: a halt changes the status only (R175). -/
theorem halt_cleared {s : State} (h : s.status = .running) (r : HaltReason) :
    { s.halt r with status := .running } = s := by
  rw [State.halt, ← h]

/-- A real step leaves a core that has stepped (R193). -/
theorem step_started {s t : State} (hr : Runnable s) (h : step s = .next t) : t.lifecycle = .started := by
  rcases step_cases h with ⟨_, ⟨r, hh⟩, _⟩ | ⟨_, _, _, rfl⟩ | ⟨_, _, _, he⟩
  · rw [hr.2] at hh; cases hh
  · rfl
  · exact (exec_config he).2

theorem start_runnable {s : State} (hr : Runnable s) : Runnable s.start := ⟨by simp, hr.2⟩

/-- Whether a core has already stepped makes no difference to a real step. -/
theorem step_start {s : State} (hr : Runnable s) : step s.start = step s := by
  rw [step_runnable (start_runnable hr), step_runnable hr, start_frontEnd]
  rfl

/-- An instruction that halts a running core has changed nothing else (R102, R175). -/
theorem exec_halts {i : Instr} {s t : State} (h : exec i s = .next t) (hs : s.status = .running)
    (ht : t.status ≠ .running) : ∃ r, t = s.halt r := by
  cases exec_cases h with
  | write _ _ _ _ _ he => subst he; exact absurd ((setReg_status ..).trans hs) ht
  | jump _ _ _ _ he => subst he; exact absurd hs ht
  | store _ _ _ _ _ _ he => subst he; exact absurd hs ht
  | fault _ _ _ _ he => exact ⟨_, he⟩

/-- A step that halts a running core has changed nothing else, but that it has stepped (R99, R175). -/
theorem step_halts {s t : State} (hr : Runnable s) (h : step s = .next t) (ht : t.status ≠ .running) :
    ∃ r, t = s.start.halt r := by
  rcases step_cases h with ⟨_, _, rfl⟩ | ⟨_, r, _, he⟩ | ⟨_, _, _, he⟩
  · exact absurd hr.2 ht
  · exact ⟨r, he⟩
  · exact exec_halts he hr.2 ht

/-- The key of the invariant: making the step that halted once more gives the same halted state, because the halt changed
nothing that the step reads (R106, R175). -/
theorem step_halt_recurs {s t : State} (hr : Runnable s) (h : step s = .next t) (ht : t.status ≠ .running) :
    step { t with status := .running } = .next t := by
  obtain ⟨r, rfl⟩ := step_halts hr h ht
  have hclear : { s.start.halt r with status := .running } = s.start :=
    halt_cleared (s := s.start) hr.2 r
  calc step { s.start.halt r with status := .running }
    _ = step s.start := congrArg step hclear
    _ = step s := step_start hr
    _ = .next (s.start.halt r) := h

/-! ## Legal states -/

/-- A real step keeps each clause of the invariant by the rule of that clause. -/
theorem step_legal_of_runnable {s t : State} (hs : Legal s) (hr : Runnable s) (h : step s = .next t) : Legal t where
  config_wf := step_config h ▸ hs.config_wf
  mem_wf := step_mem_wf h hs.mem_wf
  mem_mapped := step_mem_mapped h hs.mem_mapped
  x0_zero := (step_entry_zero h).trans hs.x0_zero
  halted_started := fun _ => step_started hr h
  halt_recurs := step_halt_recurs hr h

/-- Settles O55: a halted core does not move, and a running core makes a real step. -/
theorem stepKeepsTheInvariant : Obligations.StepKeepsTheInvariant := by
  intro s t hs h
  rcases step_cases h with ⟨_, _, rfl⟩ | ⟨hr, _⟩ | ⟨hr, _⟩
  · exact hs
  · exact step_legal_of_runnable hs hr h
  · exact step_legal_of_runnable hs hr h

/-- The reset state's configuration meets R7. -/
theorem reset_config_wf : State.reset.config.wf := by decide

/-- Settles O56: the memory is empty, the core runs, and the configuration meets R7. -/
theorem resetStateMeetsTheInvariant : Obligations.ResetStateMeetsTheInvariant where
  config_wf := reset_config_wf
  mem_wf := ⟨.nil, nofun⟩
  mem_mapped := nofun
  x0_zero := rfl
  halted_started := fun h => absurd rfl h
  halt_recurs := fun h => absurd rfl h

/-- Creation with a configuration that meets R7 answers a core with empty memory (R191). -/
theorem create_of_wf {c : Config} (h : c.wf) (regs : Vector Word 32) (pc : Word) :
    create c regs pc = .next { config := c, regs := regs.set 0 0#32, pc := pc, mem := [], status := .running,
                               lifecycle := .created } :=
  if_pos h

/-- Settles O2: the created core has the reset state's configuration and empty memory, and the reset sets the rest. -/
theorem resetStateIsAFreshInstanceAfterReset : Obligations.ResetStateIsAFreshInstanceAfterReset :=
  ⟨rfl, reg_zero _, fun _ => rfl, rfl, rfl, rfl, fun regs pc => ⟨_, create_of_wf reset_config_wf regs pc, rfl⟩⟩

/-! ## The pc -/

/-- Settles O13: the front end runs an instruction at a mapped and aligned pc only, and the state after the step is one
whose next fetch faults at a bad pc. -/
theorem onlyAlignedPcsComplete : Obligations.OnlyAlignedPcsComplete := by
  intro s t hr h ho
  have hrun : t.status = .running := outcome_continue.1 ho
  have hst : t.lifecycle = .started := step_started hr h
  obtain ⟨hout, hmis⟩ := badPc_faultsAtFetch t ⟨by rw [hst]; nofun, hrun⟩
  rw [start_of_started hst] at hout hmis
  rcases step_cases h with ⟨_, ⟨_, hh⟩, _⟩ | ⟨_, _, _, rfl⟩ | ⟨_, _, hf, _⟩
  · rw [hr.2] at hh; cases hh
  · cases hrun
  · obtain ⟨hm, ha, _⟩ := frontEnd_run hf
    exact ⟨hm, ha, hmis, hout⟩

end Sys2Proof.Machine

/-! SUPPORT. Memory (20_memory.md): loading a segment (R49), the byte view of a word (R44, R45), checked accesses (R51, R52),
what changes memory (R48, R58) and fetch after a store (R62). -/

namespace Sys2Proof.Machine

/-! ## Loading a segment -/

/-- Before the first step, only the bounds decide a load (R49, R193). -/
theorem loadSegment_of_not_started {s : State} (h : s.lifecycle ≠ .started) (data : List Byte) (address : Nat) :
    loadSegment data address s =
      if address < s.config.base ∨ s.config.base + s.config.size < address + data.length then
        .fault .segmentOutOfBounds
      else .next { s with mem := s.mem.writeBytes address data } := by
  unfold loadSegment
  split
  case h_1 hs => exact absurd hs h
  case h_2 => rfl

/-- Settles O5: the bounds test is the statement's own, and the bytes are those of a read after `writeBytes`. -/
theorem loadSegmentCopiesEveryByteOrFails : Obligations.LoadSegmentCopiesEveryByteOrFails := by
  intro data address s hwf hl
  rw [loadSegment_of_not_started hl]
  refine ⟨fun hout => if_pos hout,
    fun hin => ⟨_, if_neg (by omega), fun k hk => ?_, fun a ha => ?_, fun _ => rfl, rfl, rfl, rfl, rfl⟩⟩
  · refine (Memory.read_writeBytes hwf ..).trans ?_
    simp [hk]
  · refine (Memory.read_writeBytes hwf ..).trans ?_
    by_cases hle : address ≤ a
    · rw [if_pos hle, List.getElem?_eq_none (by omega)]
      rfl
    · exact if_neg hle

/-! ## Fetch -/

/-- Settles O8: a bad pc faults at the fetch, and a good one fetches the word. -/
theorem fetchFaultsOrReadsTheWordAtPc : Obligations.FetchFaultsOrReadsTheWordAtPc := by
  intro s hr
  obtain ⟨hout, hmis⟩ := badPc_faultsAtFetch s hr
  exact ⟨hout, hmis, fetch_ok s⟩

/-! ## The bytes of a word (R44, R45) -/

/-- Byte 0 of a byte put under a number is that byte. -/
theorem extractLsb'_zero_or_shiftLeft (b : Byte) (x : Word) : (b.setWidth 32 ||| x <<< 8).extractLsb' 0 8 = b := by
  ext i hi
  simp [hi, Nat.lt_trans hi (by decide : 8 < 32)]

/-- Byte `k + 1` of a byte put under a number is byte `k` of the number. -/
theorem extractLsb'_succ_or_shiftLeft (b : Byte) (x : Word) {k : Nat} (hk : k + 1 < 4) :
    (b.setWidth 32 ||| x <<< 8).extractLsb' (8 * (k + 1)) 8 = x.extractLsb' (8 * k) 8 := by
  ext i hi
  have hlt : 8 * (k + 1) + i < 32 := by omega
  have hlt' : 8 * k + i < 32 := by omega
  have hge : 8 ≤ 8 * (k + 1) + i := by omega
  have hsub : 8 * (k + 1) + i - 8 = 8 * k + i := by omega
  simp [hlt, hsub, BitVec.getLsbD_of_ge b _ hge, Nat.not_lt.2 hge, BitVec.getLsbD_eq_getElem hlt']

/-- Byte `k` of a little-endian read is the byte at `a + k`, and 0 above the width. -/
theorem Memory.extractLsb'_readLE (m : Memory) (a n k : Nat) (hk : k < 4) :
    (m.readLE a n).extractLsb' (8 * k) 8 = if k < n then m.read (a + k) else 0#8 := by
  induction n generalizing a k with
  | zero => simp [Memory.readLE]
  | succ n ih =>
    cases k with
    | zero => exact extractLsb'_zero_or_shiftLeft ..
    | succ k =>
      rw [Memory.readLE, extractLsb'_succ_or_shiftLeft _ _ hk, ih _ _ (by omega), Nat.add_right_comm a 1 k]
      simp only [Nat.add_lt_add_iff_right, Nat.add_assoc]

/-- A word is its four bytes. -/
theorem word_eq_of_bytes {x y : Word} (h : ∀ k, k < 4 → x.extractLsb' (8 * k) 8 = y.extractLsb' (8 * k) 8) : x = y := by
  apply BitVec.eq_of_getLsbD_eq
  intro i hi
  have hb := congrArg (BitVec.getLsbD · (i % 8)) (h (i / 8) (by omega))
  simpa [BitVec.getLsbD_extractLsb', Nat.mod_lt, Nat.div_add_mod] using hb

theorem extractLsb'_wordAt (s : State) (a k : Nat) (hk : k < 4) :
    (wordAt s a).extractLsb' (8 * k) 8 = byteAt s (a + k) := by
  rw [← readLE_wordAt, Memory.extractLsb'_readLE _ _ _ _ hk, if_pos hk]
  rfl

/-- An address whose four bytes are those of a word holds that word. -/
theorem wordAt_eq_of_bytes {s : State} {a : Nat} {v : Word}
    (h : ∀ k, k < 4 → byteAt s (a + k) = v.extractLsb' (8 * k) 8) : wordAt s a = v :=
  word_eq_of_bytes fun k hk => (extractLsb'_wordAt s a k hk).trans (h k hk)

/-- Halfword `j` of a word is bytes `2 * j` and `2 * j + 1` of it. -/
theorem extractLsb'_half (x : Word) (j : Nat) :
    x.extractLsb' (16 * j) 16 = x.extractLsb' (8 * (2 * j + 1)) 8 ++ x.extractLsb' (8 * (2 * j)) 8 := by
  rw [BitVec.extractLsb'_append_extractLsb'_eq_extractLsb' (by omega)]
  congr 1
  omega

/-! ## Checked accesses (R51, R52) -/

/-- What is mapped depends on the configuration only (R50). -/
theorem mapped_congr {s t : State} (h : t.config = s.config) {a : Word} {n : Nat} : Mapped t a n ↔ Mapped s a n := by
  rw [Mapped, h]

section Accesses
variable {s : State} {a : Word}

theorem memRead_byte (h : Mapped s a 1) : s.memRead a .byte = .ok ((byteAt s a.toNat).setWidth 32) := by
  rw [memRead_of_none (accessFault_of_ok (w := .byte) h nofun)]
  exact congrArg _ (Memory.readLE_one ..)

theorem memRead_half (h : Mapped s a 2) :
    s.memRead a .half = .ok ((byteAt s (a.toNat + 1) ++ byteAt s a.toNat).setWidth 32) := by
  rw [memRead_of_none (accessFault_of_ok (w := .half) h nofun)]
  exact congrArg _ (Memory.readLE_two ..)

theorem memRead_word (h : Mapped s a 4) (ha : WordAligned a) : s.memRead a .word = .ok (wordAt s a.toNat) := by
  rw [memRead_of_none (accessFault_of_ok h fun _ => ha)]
  exact congrArg _ (readLE_wordAt s _)

/-- A write that raises nothing changes its own bytes to those of the value, and nothing else (R52). -/
theorem memWrite_ok {w : Width} (hwf : s.mem.wf) (h : Mapped s a w.bytes) (ha : w = .word → WordAligned a) (v : Word) :
    ∃ t, s.memWrite a w v = .ok t ∧
      (∀ b, byteAt t b = if a.toNat ≤ b ∧ b < a.toNat + w.bytes then v.extractLsb' (8 * (b - a.toNat)) 8
        else byteAt s b) ∧
      SameRegs s t ∧ t.pc = s.pc ∧ SameControl s t :=
  ⟨_, memWrite_of_none (accessFault_of_ok h ha), fun b => Memory.read_writeLE hwf _ _ b v, fun _ => rfl, rfl, rfl, rfl,
    rfl⟩

end Accesses

/-- Settles O28: the three ways of an access, and the bytes of the read and of the write that raise nothing. -/
theorem memoryAccessesCheckBoundsThenAlignment : Obligations.MemoryAccessesCheckBoundsThenAlignment := by
  intro s a w v hwf
  refine ⟨fun h => ?_, fun h hw ha => ?_, fun h ha => ⟨?_, memWrite_ok hwf h ha v⟩⟩
  · have hf := accessFault_of_not_mapped h
    exact ⟨memRead_of_some hf, memWrite_of_some hf⟩
  · subst hw
    have hf := accessFault_of_misaligned h ha
    exact ⟨memRead_of_some hf, memWrite_of_some hf⟩
  · exact ⟨_, memRead_of_none (accessFault_of_ok h ha), Memory.extractLsb'_readLE _ _ _⟩

/-! ## Accesses inside an aligned word (R45) -/

section InsideWord
variable {s : State} {a : Word} {k : Nat}

/-- No address inside an aligned word wraps around. -/
theorem toNat_add_of_wordAligned (ha : WordAligned a) (hk : k < 4) : (a + BitVec.ofNat 32 k).toNat = a.toNat + k := by
  have hlt := a.isLt
  rw [BitVec.toNat_add, BitVec.toNat_ofNat]
  omega

/-- A narrower access inside a mapped aligned word is mapped. -/
theorem mapped_inside_word {n : Nat} (ha : WordAligned a) (hm : Mapped s a 4) (hk : k < 4) (hn : k + n ≤ 4) :
    Mapped s (a + BitVec.ofNat 32 k) n := by
  obtain ⟨hlo, hhi⟩ := hm
  rw [Mapped, toNat_add_of_wordAligned ha hk]
  omega

theorem memRead_byte_inside_word (ha : WordAligned a) (hm : Mapped s a 4) (hk : k < 4) :
    s.memRead (a + BitVec.ofNat 32 k) .byte = .ok ((byteAt s (a.toNat + k)).setWidth 32) := by
  rw [memRead_byte (mapped_inside_word ha hm hk hk), toNat_add_of_wordAligned ha hk]

theorem memRead_half_inside_word {j : Nat} (ha : WordAligned a) (hm : Mapped s a 4) (hj : j < 2) :
    s.memRead (a + BitVec.ofNat 32 (2 * j)) .half =
      .ok (((wordAt s a.toNat).extractLsb' (16 * j) 16).setWidth 32) := by
  have hk : 2 * j < 4 := by omega
  rw [memRead_half (mapped_inside_word ha hm hk (by omega)), toNat_add_of_wordAligned ha hk, extractLsb'_half,
    extractLsb'_wordAt _ _ _ hk, extractLsb'_wordAt _ _ _ (by omega), Nat.add_assoc]

end InsideWord

/-- Settles O29: every access inside the word is one of its bytes, read before or after the write. -/
theorem mixedWidthAccessesAgree : Obligations.MixedWidthAccessesAgree := by
  intro s a v hwf ha hm
  refine ⟨_, memRead_word hm ha, fun k hk => ?_, fun j hj => memRead_half_inside_word ha hm hj, ?_, fun k hk => ?_⟩
  · rw [memRead_byte_inside_word ha hm hk, extractLsb'_wordAt _ _ _ hk]
  · obtain ⟨t, ht, hbytes, _, _, hcfg, _⟩ := memWrite_ok (w := .word) hwf hm (fun _ => ha) v
    have hmt : Mapped t a 4 := (mapped_congr hcfg).2 hm
    refine ⟨t, ht, fun k hk => ?_⟩
    rw [memRead_byte_inside_word ha hmt hk, hbytes, if_pos ⟨Nat.le_add_right .., Nat.add_lt_add_left hk _⟩,
      Nat.add_sub_cancel_left]
  · obtain ⟨t, ht, hbytes, _, _, hcfg, _⟩ :=
      memWrite_ok (w := .byte) hwf (mapped_inside_word ha hm hk hk) nofun v
    have hmt : Mapped t a 4 := (mapped_congr hcfg).2 hm
    refine ⟨t, _, ht, memRead_word hmt ha, fun j hj => ?_⟩
    rw [extractLsb'_wordAt _ _ _ hj, extractLsb'_wordAt _ _ _ hj, hbytes, toNat_add_of_wordAligned ha hk]
    by_cases hjk : j = k
    · subst hjk
      simp [Width.bytes]
    · rw [if_neg hjk, if_neg (by simp only [Width.bytes]; omega)]

/-! ## Stores -/

/-- Settles O25: only the store case of an instruction writes memory, and only the bytes of its access. -/
theorem onlyStoresChangeMemory : Obligations.OnlyStoresChangeMemory := by
  intro i s t hwf h a hne
  cases exec_cases h with
  | write _ _ _ _ _ ht => subst ht; exact absurd (congrArg (Memory.read · a) (setReg_mem ..)) hne
  | jump _ _ _ _ ht => subst ht; exact absurd rfl hne
  | store w v _ hs hw _ ht =>
    subst ht
    refine ⟨hs, w, hw, not_imp_comm.1 (fun hout => ?_) hne⟩
    exact (Memory.read_writeLE hwf ..).trans (if_neg hout)
  | fault _ _ _ _ ht => subst ht; exact absurd rfl hne

/-- A store whose access raises nothing stores the bytes of its data register and goes on (R131). -/
theorem storeFrom_ok {i : Instr} {w : Width} {rs1 rs2 : RegIdx} {imm : BitVec 12} {s : State} (hwf : s.mem.wf)
    (hf : accessFault s.config (s.effAddr rs1 imm) w = none) :
    ∃ t, storeFrom i w rs1 rs2 imm s = .next t ∧ StoresBytes (s.effAddr rs1 imm) w.bytes (s.reg rs2) s t := by
  rcases storeFrom_cases i w rs1 rs2 imm s with ⟨k, hk, _⟩ | ⟨_, ht⟩
  · rw [hf] at hk; cases hk
  · refine ⟨_, ht, fun k hk => ?_, fun b hb => ?_, fun _ => rfl, rfl, rfl, rfl, rfl⟩
    · refine (Memory.read_writeLE hwf ..).trans ?_
      rw [if_pos (by omega), Nat.add_sub_cancel_left]
    · exact (Memory.read_writeLE hwf ..).trans (if_neg (by omega))

/-- Settles O30: after the store the next pc holds the four bytes of the stored word, so that word is fetched, and the
front end runs what it decodes to. -/
theorem storedWordIsExecutedNext : Obligations.StoredWordIsExecutedNext := by
  intro s rs1 rs2 imm i hwf hr haddr hm ha hsent hdec
  have haddr : s.effAddr rs1 imm = s.pc + 4#32 := haddr
  obtain ⟨t, ht, hbytes, _, _, hpc, hcfg, hstatus, hlife⟩ :=
    storeFrom_ok (i := .sw rs1 rs2 imm) (w := .word) (rs2 := rs2) hwf
      (haddr ▸ accessFault_of_ok (w := .word) hm fun _ => ha)
  have hword : wordAt t t.pc.toNat = s.reg rs2 := by
    rw [hpc, ← haddr]
    exact wordAt_eq_of_bytes hbytes
  have hmt : Mapped t t.pc 4 := (mapped_congr hcfg).2 (hpc ▸ hm)
  have hat : WordAligned t.pc := hpc ▸ ha
  have hrt : Runnable t := ⟨hlife ▸ hr.1, hstatus.trans hr.2⟩
  refine ⟨t, ht, ?_, step_of_run hrt (frontEnd_of_decode hmt hat ?_ ?_)⟩
  · rw [fetch_ok t hmt hat, hword]
  · rw [hword, hcfg]; exact hsent
  · rw [hword]; exact hdec

end Sys2Proof.Machine

/-! SUPPORT. Encoding (30_encoding.md): the decoder and the encoder are inverse to each other (R69 to R77, R85 to R89), the
decoder accepts the words of the opcode table and no others (R89, R91), the immediates extend as R78 to R84 say, and the
meanings agree with the datapath that the decoded record and the dispatcher's signals drive (R90, R101). -/

namespace Sys2Proof

/-! ## The decoder by major opcode (R85) -/

section DecodeByOpcode
variable {w : Word}

theorem decode_lui (h : opcodeOf w = 0x37#7) : decode w = .ok (.lui (rdOf w) (immUOf w)) := by simp [decode, h]
theorem decode_auipc (h : opcodeOf w = 0x17#7) : decode w = .ok (.auipc (rdOf w) (immUOf w)) := by simp [decode, h]
theorem decode_jal (h : opcodeOf w = 0x6F#7) : decode w = .ok (.jal (rdOf w) (immJOf w)) := by simp [decode, h]
theorem decode_jalr (h : opcodeOf w = 0x67#7) (hf : funct3Of w = 0b000#3) :
    decode w = .ok (.jalr (rdOf w) (rs1Of w) (immIOf w)) := by simp [decode, h, hf]
theorem decode_jalr_fault (h : opcodeOf w = 0x67#7) (hf : funct3Of w ≠ 0b000#3) :
    decode w = .error .unknownFunct3 := by simp [decode, h]
theorem decode_branch (h : opcodeOf w = 0x63#7) : decode w = decodeBranch w := by simp [decode, h]
theorem decode_load (h : opcodeOf w = 0x03#7) : decode w = decodeLoad w := by simp [decode, h]
theorem decode_store (h : opcodeOf w = 0x23#7) : decode w = decodeStore w := by simp [decode, h]
theorem decode_opImm (h : opcodeOf w = 0x13#7) : decode w = decodeOpImm w := by simp [decode, h]
theorem decode_op (h : opcodeOf w = 0x33#7) : decode w = decodeOp w := by simp [decode, h]
theorem decode_fence (h : opcodeOf w = 0x0F#7) : decode w = decodeFence w := by simp [decode, h]
theorem decode_system (h : opcodeOf w = 0x73#7) : decode w = decodeSystem w := by simp [decode, h]

/-- The 11 major opcodes of R85, in rising order. -/
def majorOpcodes : List (BitVec 7) :=
  [0x03#7, 0x0F#7, 0x13#7, 0x17#7, 0x23#7, 0x33#7, 0x37#7, 0x63#7, 0x67#7, 0x6F#7, 0x73#7]

theorem decode_unknownOpcode (h : opcodeOf w ∉ majorOpcodes) : decode w = .error .unknownOpcode := by
  unfold decode
  split
  case h_12 => rfl
  all_goals simp_all [majorOpcodes]

end DecodeByOpcode

/-- What the major opcode of a word makes of it (R85): one of the 11 classes, or no instruction. -/
inductive DecodeCase (w : Word) : Prop where
  | lui (hop : opcodeOf w = 0x37#7) (hd : decode w = .ok (.lui (rdOf w) (immUOf w)))
  | auipc (hop : opcodeOf w = 0x17#7) (hd : decode w = .ok (.auipc (rdOf w) (immUOf w)))
  | jal (hop : opcodeOf w = 0x6F#7) (hd : decode w = .ok (.jal (rdOf w) (immJOf w)))
  | jalr (hop : opcodeOf w = 0x67#7) (hf : funct3Of w = 0b000#3)
      (hd : decode w = .ok (.jalr (rdOf w) (rs1Of w) (immIOf w)))
  | jalrFault (hop : opcodeOf w = 0x67#7) (hf : funct3Of w ≠ 0b000#3) (hd : decode w = .error .unknownFunct3)
  | branch (hop : opcodeOf w = 0x63#7) (hd : decode w = decodeBranch w)
  | load (hop : opcodeOf w = 0x03#7) (hd : decode w = decodeLoad w)
  | store (hop : opcodeOf w = 0x23#7) (hd : decode w = decodeStore w)
  | opImm (hop : opcodeOf w = 0x13#7) (hd : decode w = decodeOpImm w)
  | op (hop : opcodeOf w = 0x33#7) (hd : decode w = decodeOp w)
  | fence (hop : opcodeOf w = 0x0F#7) (hd : decode w = decodeFence w)
  | system (hop : opcodeOf w = 0x73#7) (hd : decode w = decodeSystem w)
  | unknown (hop : opcodeOf w ∉ majorOpcodes) (hd : decode w = .error .unknownOpcode)

/-- The inversion lemma of `decode` (R85, R89). -/
theorem decode_cases (w : Word) : DecodeCase w := by
  by_cases h : opcodeOf w ∈ majorOpcodes
  · simp only [majorOpcodes, List.mem_cons, List.not_mem_nil, or_false] at h
    rcases h with h | h | h | h | h | h | h | h | h | h | h
    · exact .load h (decode_load h)
    · exact .fence h (decode_fence h)
    · exact .opImm h (decode_opImm h)
    · exact .auipc h (decode_auipc h)
    · exact .store h (decode_store h)
    · exact .op h (decode_op h)
    · exact .lui h (decode_lui h)
    · exact .branch h (decode_branch h)
    · by_cases hf : funct3Of w = 0b000#3
      · exact .jalr h hf (decode_jalr h hf)
      · exact .jalrFault h hf (decode_jalr_fault h hf)
    · exact .jal h (decode_jal h)
    · exact .system h (decode_system h)
  · exact .unknown h (decode_unknownOpcode h)

/-! ## Decoding an encoded instruction -/

/-- Settles O14: the encoded word has the opcode of its class, and the class decoder reads back each field of the format;
a branch or jump offset reads back because it is even. -/
theorem decodeOfEncodeIsTheInstruction : Obligations.DecodeOfEncodeIsTheInstruction := by
  intro i h
  cases i
  case lui => simp [encode, decode_lui]
  case auipc => simp [encode, decode_auipc]
  case jal => simp [encode, decode_jal, immJOf_jType _ _ _ h]
  case jalr => simp [encode, decode_jalr]
  case beq | bne | blt | bge | bltu | bgeu => simp [encode, decode_branch, decodeBranch, immBOf_bType _ _ _ _ _ h]
  case lb | lh | lw | lbu | lhu => simp [encode, decode_load, decodeLoad]
  case sb | sh | sw => simp [encode, decode_store, decodeStore]
  case addi | slti | sltiu | xori | ori | andi | slli | srli | srai => simp [encode, decode_opImm, decodeOpImm]
  case add | sub | sll | slt | sltu | xor | srl | sra | or | and => simp [encode, decode_op, decodeOp]
  case fence | fenceI => simp [encode, decode_fence, decodeFence]
  case ecall | ebreak => decide
  case csrrw | csrrs | csrrc | csrrwi | csrrsi | csrrci => simp [encode, decode_system, decodeSystem]

/-! ## Encoding a decoded word -/

section FieldsOfAWord
variable {w : Word} {opcode : BitVec 7} {funct3 : BitVec 3} {funct7 : BitVec 7}

theorem rType_of_fields (hop : opcodeOf w = opcode) (hf : funct3Of w = funct3) (h7 : funct7Of w = funct7) :
    rType funct7 (rs2Of w) (rs1Of w) funct3 (rdOf w) opcode = w := by
  subst hop hf h7; exact rType_fields w

theorem iType_of_fields (hop : opcodeOf w = opcode) (hf : funct3Of w = funct3) :
    iType (immIOf w) (rs1Of w) funct3 (rdOf w) opcode = w := by
  subst hop hf; exact iType_fields w

theorem sType_of_fields (hop : opcodeOf w = opcode) (hf : funct3Of w = funct3) :
    sType (immSOf w) (rs2Of w) (rs1Of w) funct3 opcode = w := by
  subst hop hf; exact sType_fields w

theorem bType_of_fields (hop : opcodeOf w = opcode) (hf : funct3Of w = funct3) :
    bType (immBOf w) (rs2Of w) (rs1Of w) funct3 opcode = w := by
  subst hop hf; exact bType_fields w

theorem uType_of_fields (hop : opcodeOf w = opcode) : uType (immUOf w) (rdOf w) opcode = w := by
  subst hop; exact uType_fields w

theorem jType_of_fields (hop : opcodeOf w = opcode) : jType (immJOf w) (rdOf w) opcode = w := by
  subst hop; exact jType_fields w

theorem fenceType_of_fields (hop : opcodeOf w = opcode) (hf : funct3Of w = funct3) :
    fenceType (w.extractLsb' 28 4) (w.extractLsb' 24 4) (w.extractLsb' 20 4) (rs1Of w) funct3 (rdOf w) opcode = w := by
  subst hop hf; exact fenceType_fields w

end FieldsOfAWord

/-- `i` is an instruction that `w` encodes. -/
def Encodes (w : Word) (i : Instr) : Prop := i.wf = true ∧ encode i = w

/-- The eight values of funct3 (R86). -/
theorem funct3_cases (f : BitVec 3) :
    f = 0b000#3 ∨ f = 0b001#3 ∨ f = 0b010#3 ∨ f = 0b011#3 ∨ f = 0b100#3 ∨ f = 0b101#3 ∨ f = 0b110#3 ∨ f = 0b111#3 := by
  revert f; decide

section EncodesDecoded
variable {w : Word} {i : Instr}

theorem encodes_of_decodeBranch (hop : opcodeOf w = 0x63#7) (h : decodeBranch w = .ok i) : Encodes w i := by
  unfold decodeBranch at h
  split at h <;> cases h <;> exact ⟨evenOffset_immBOf w, bType_of_fields hop ‹_›⟩

theorem encodes_of_decodeLoad (hop : opcodeOf w = 0x03#7) (h : decodeLoad w = .ok i) : Encodes w i := by
  unfold decodeLoad at h
  split at h <;> cases h <;> exact ⟨rfl, iType_of_fields hop ‹_›⟩

theorem encodes_of_decodeStore (hop : opcodeOf w = 0x23#7) (h : decodeStore w = .ok i) : Encodes w i := by
  unfold decodeStore at h
  split at h <;> cases h <;> exact ⟨rfl, sType_of_fields hop ‹_›⟩

theorem encodes_of_decodeFence (hop : opcodeOf w = 0x0F#7) (h : decodeFence w = .ok i) : Encodes w i := by
  unfold decodeFence at h
  split at h <;> cases h
  · exact ⟨rfl, fenceType_of_fields hop ‹_›⟩
  · exact ⟨rfl, iType_of_fields hop ‹_›⟩

theorem encodes_of_decodeOp (hop : opcodeOf w = 0x33#7) (h : decodeOp w = .ok i) : Encodes w i := by
  unfold decodeOp at h
  split at h <;> cases h <;> exact ⟨rfl, rType_of_fields hop ‹_› ‹_›⟩

theorem encodes_of_decodeOpImm (hop : opcodeOf w = 0x13#7) (h : decodeOpImm w = .ok i) : Encodes w i := by
  rcases funct3_cases (funct3Of w) with hf | hf | hf | hf | hf | hf | hf | hf <;> simp only [decodeOpImm, hf] at h
  -- funct3 001 and 101: the shifts, told apart by funct7 (R87)
  case inr.inl | inr.inr.inr.inr.inr.inl =>
    split at h <;> cases h <;> exact ⟨rfl, rType_of_fields hop hf ‹_›⟩
  all_goals cases h; exact ⟨rfl, iType_of_fields hop hf⟩

theorem encodes_of_decodeSystem (hop : opcodeOf w = 0x73#7) (h : decodeSystem w = .ok i) : Encodes w i := by
  unfold decodeSystem at h
  split at h
  case h_1 =>
    split at h
    case isTrue hw => cases h; exact ⟨rfl, hw.symm⟩
    case isFalse =>
      split at h
      case isTrue hw => cases h; exact ⟨rfl, hw.symm⟩
      case isFalse => cases h
  all_goals cases h <;> exact ⟨rfl, iType_of_fields hop ‹_›⟩

end EncodesDecoded

/-- Settles O15: whichever class decoder accepts the word, its fields put together in the class's format are the word. -/
theorem encodeOfDecodeIsTheWord : Obligations.EncodeOfDecodeIsTheWord := by
  intro w i h
  cases decode_cases w with
  | lui hop hd => rw [hd] at h; cases h; exact ⟨rfl, uType_of_fields hop⟩
  | auipc hop hd => rw [hd] at h; cases h; exact ⟨rfl, uType_of_fields hop⟩
  | jal hop hd => rw [hd] at h; cases h; exact ⟨evenOffset_immJOf w, jType_of_fields hop⟩
  | jalr hop hf hd => rw [hd] at h; cases h; exact ⟨rfl, iType_of_fields hop hf⟩
  | branch hop hd => exact encodes_of_decodeBranch hop (hd ▸ h)
  | load hop hd => exact encodes_of_decodeLoad hop (hd ▸ h)
  | store hop hd => exact encodes_of_decodeStore hop (hd ▸ h)
  | opImm hop hd => exact encodes_of_decodeOpImm hop (hd ▸ h)
  | op hop hd => exact encodes_of_decodeOp hop (hd ▸ h)
  | fence hop hd => exact encodes_of_decodeFence hop (hd ▸ h)
  | system hop hd => exact encodes_of_decodeSystem hop (hd ▸ h)
  | jalrFault _ _ hd => rw [hd] at h; cases h
  | unknown _ hd => rw [hd] at h; cases h

/-! ## The opcode table (R89, R91) -/

section Rows
variable {w mask bits : Word}

/-- A word of a row has the row's bits in every field that the row's mask keeps. -/
theorem extractLsb'_of_match (h : w &&& mask = bits) (start len : Nat)
    (hm : mask.extractLsb' start len = BitVec.allOnes len) : w.extractLsb' start len = bits.extractLsb' start len := by
  rw [← h, BitVec.extractLsb'_and, hm, BitVec.and_allOnes]

theorem opcodeOf_of_match (h : w &&& mask = bits) (hm : opcodeOf mask = BitVec.allOnes 7) :
    opcodeOf w = opcodeOf bits := extractLsb'_of_match h 0 7 hm

theorem funct3Of_of_match (h : w &&& mask = bits) (hm : funct3Of mask = BitVec.allOnes 3) :
    funct3Of w = funct3Of bits := extractLsb'_of_match h 12 3 hm

theorem funct7Of_of_match (h : w &&& mask = bits) (hm : funct7Of mask = BitVec.allOnes 7) :
    funct7Of w = funct7Of bits := extractLsb'_of_match h 25 7 hm

end Rows

/-- The row of every instruction stands in the table. -/
theorem row_mem_opcodeTable (i : Instr) : i.row ∈ opcodeTable := by
  cases i <;> simp only [Instr.row] <;> decide

/-- The word of every instruction is a word of its row: the family EncodedRow, one instruction each. -/
theorem encode_matches_row : ∀ i : Instr, encode i &&& i.row.mask = i.row.bits
  | .lui .. => Laws.EncodedRow.lui ..
  | .auipc .. => Laws.EncodedRow.auipc ..
  | .jal .. => Laws.EncodedRow.jal ..
  | .jalr .. => Laws.EncodedRow.jalr ..
  | .beq .. => Laws.EncodedRow.beq ..
  | .bne .. => Laws.EncodedRow.bne ..
  | .blt .. => Laws.EncodedRow.blt ..
  | .bge .. => Laws.EncodedRow.bge ..
  | .bltu .. => Laws.EncodedRow.bltu ..
  | .bgeu .. => Laws.EncodedRow.bgeu ..
  | .lb .. => Laws.EncodedRow.lb ..
  | .lh .. => Laws.EncodedRow.lh ..
  | .lw .. => Laws.EncodedRow.lw ..
  | .lbu .. => Laws.EncodedRow.lbu ..
  | .lhu .. => Laws.EncodedRow.lhu ..
  | .sb .. => Laws.EncodedRow.sb ..
  | .sh .. => Laws.EncodedRow.sh ..
  | .sw .. => Laws.EncodedRow.sw ..
  | .addi .. => Laws.EncodedRow.addi ..
  | .slti .. => Laws.EncodedRow.slti ..
  | .sltiu .. => Laws.EncodedRow.sltiu ..
  | .xori .. => Laws.EncodedRow.xori ..
  | .ori .. => Laws.EncodedRow.ori ..
  | .andi .. => Laws.EncodedRow.andi ..
  | .slli .. => Laws.EncodedRow.slli ..
  | .srli .. => Laws.EncodedRow.srli ..
  | .srai .. => Laws.EncodedRow.srai ..
  | .add .. => Laws.EncodedRow.add ..
  | .sub .. => Laws.EncodedRow.sub ..
  | .sll .. => Laws.EncodedRow.sll ..
  | .slt .. => Laws.EncodedRow.slt ..
  | .sltu .. => Laws.EncodedRow.sltu ..
  | .xor .. => Laws.EncodedRow.xor ..
  | .srl .. => Laws.EncodedRow.srl ..
  | .sra .. => Laws.EncodedRow.sra ..
  | .or .. => Laws.EncodedRow.or ..
  | .and .. => Laws.EncodedRow.and ..
  | .fence .. => Laws.EncodedRow.fence ..
  | .fenceI .. => Laws.EncodedRow.fenceI ..
  | .ecall => Laws.EncodedRow.ecall
  | .ebreak => Laws.EncodedRow.ebreak
  | .csrrw .. => Laws.EncodedRow.csrrw ..
  | .csrrs .. => Laws.EncodedRow.csrrs ..
  | .csrrc .. => Laws.EncodedRow.csrrc ..
  | .csrrwi .. => Laws.EncodedRow.csrrwi ..
  | .csrrsi .. => Laws.EncodedRow.csrrsi ..
  | .csrrci .. => Laws.EncodedRow.csrrci ..

/-- Every row of the table is the row of some instruction. -/
theorem exists_row_of_mem_opcodeTable {r : OpcodeRow} (h : r ∈ opcodeTable) : ∃ j : Instr, j.row = r := by
  obtain ⟨j, _, hj⟩ := List.mem_map.1 h
  exact ⟨j, hj⟩

/-- A word of an instruction's row decodes to that row: its bits fix the opcode, and funct3 and funct7 as far as the decoder
reads them. -/
theorem decode_map_row_of_match {w : Word} (j : Instr) (h : w &&& j.row.mask = j.row.bits) :
    (decode w).map Instr.row = .ok j.row := by
  cases j <;> simp only [Instr.row] at h ⊢
  case lui => rw [decode_lui (opcodeOf_of_match h rfl)]; rfl
  case auipc => rw [decode_auipc (opcodeOf_of_match h rfl)]; rfl
  case jal => rw [decode_jal (opcodeOf_of_match h rfl)]; rfl
  case jalr => rw [decode_jalr (opcodeOf_of_match h rfl) (funct3Of_of_match h rfl)]; rfl
  case beq | bne | blt | bge | bltu | bgeu =>
    rw [decode_branch (opcodeOf_of_match h rfl), decodeBranch, funct3Of_of_match h rfl]; rfl
  case lb | lh | lw | lbu | lhu =>
    rw [decode_load (opcodeOf_of_match h rfl), decodeLoad, funct3Of_of_match h rfl]; rfl
  case sb | sh | sw =>
    rw [decode_store (opcodeOf_of_match h rfl), decodeStore, funct3Of_of_match h rfl]; rfl
  case addi | slti | sltiu | xori | ori | andi =>
    rw [decode_opImm (opcodeOf_of_match h rfl), decodeOpImm, funct3Of_of_match h rfl]; rfl
  case slli | srli | srai =>
    rw [decode_opImm (opcodeOf_of_match h rfl), decodeOpImm, funct3Of_of_match h rfl, funct7Of_of_match h rfl]; rfl
  case add | sub | sll | slt | sltu | xor | srl | sra | or | and =>
    rw [decode_op (opcodeOf_of_match h rfl), decodeOp, funct3Of_of_match h rfl, funct7Of_of_match h rfl]; rfl
  case fence | fenceI =>
    rw [decode_fence (opcodeOf_of_match h rfl), decodeFence, funct3Of_of_match h rfl]; rfl
  case csrrw | csrrs | csrrc | csrrwi | csrrsi | csrrci =>
    rw [decode_system (opcodeOf_of_match h rfl), decodeSystem, funct3Of_of_match h rfl]; rfl
  case ecall | ebreak =>
    have hw := BitVec.and_allOnes.symm.trans h
    rw [hw]; rfl

/-- The decoder accepts every word of the table, as an instruction of the word's row. -/
theorem decode_of_mem_opcodeTable {w : Word} {r : OpcodeRow} (hr : r ∈ opcodeTable) (h : w &&& r.mask = r.bits) :
    ∃ i, decode w = .ok i ∧ i.row = r := by
  obtain ⟨j, rfl⟩ := exists_row_of_mem_opcodeTable hr
  have hm := decode_map_row_of_match j h
  cases hd : decode w with
  | ok i => rw [hd] at hm; exact ⟨i, rfl, Except.ok.inj hm⟩
  | error k => rw [hd] at hm; cases hm

/-- Settles O16: an accepted word is the encoding of its instruction, which matches its row; a word of a row decodes to that
row; and two rows with a common word are equal because the decoder is a function. -/
theorem decoderAgreesWithTheOpcodeTable : Obligations.DecoderAgreesWithTheOpcodeTable := by
  refine ⟨fun w i hd => ⟨row_mem_opcodeTable i, ?_⟩, fun _ _ => decode_of_mem_opcodeTable,
    fun w r q hr hq hwr hwq => ?_⟩
  · obtain ⟨_, rfl⟩ := encodeOfDecodeIsTheWord w i hd
    exact encode_matches_row i
  · obtain ⟨i, hi, rfl⟩ := decode_of_mem_opcodeTable hr hwr
    obtain ⟨j, hj, rfl⟩ := decode_of_mem_opcodeTable hq hwq
    exact congrArg Instr.row (Except.ok.inj (hi.symm.trans hj))

/-! ## The decode faults (R85 to R88) -/

section ClassFaults
variable {w : Word} {k : FaultKind}

theorem decodeBranch_error_iff :
    decodeBranch w = .error k ↔ k = .unknownFunct3 ∧ funct3Of w ∈ [0b010#3, 0b011#3] := by
  rcases funct3_cases (funct3Of w) with hf | hf | hf | hf | hf | hf | hf | hf <;>
    simp [decodeBranch, hf, eq_comm (a := k)]

theorem decodeLoad_error_iff :
    decodeLoad w = .error k ↔ k = .unknownFunct3 ∧ funct3Of w ∈ [0b011#3, 0b110#3, 0b111#3] := by
  rcases funct3_cases (funct3Of w) with hf | hf | hf | hf | hf | hf | hf | hf <;>
    simp [decodeLoad, hf, eq_comm (a := k)]

theorem decodeStore_error_iff :
    decodeStore w = .error k ↔ k = .unknownFunct3 ∧ funct3Of w ∉ [0b000#3, 0b001#3, 0b010#3] := by
  rcases funct3_cases (funct3Of w) with hf | hf | hf | hf | hf | hf | hf | hf <;>
    simp [decodeStore, hf, eq_comm (a := k)]

theorem decodeFence_error_iff :
    decodeFence w = .error k ↔ k = .unknownFunct3 ∧ funct3Of w ∉ [0b000#3, 0b001#3] := by
  rcases funct3_cases (funct3Of w) with hf | hf | hf | hf | hf | hf | hf | hf <;>
    simp [decodeFence, hf, eq_comm (a := k)]

theorem decodeSystem_error_iff :
    decodeSystem w = .error k ↔
      (k = .unknownFunct3 ∧ funct3Of w = 0b100#3) ∨
      (k = .unknownFunct7 ∧ funct3Of w = 0b000#3 ∧ w ≠ 0x00000073#32 ∧ w ≠ 0x00100073#32) := by
  rcases funct3_cases (funct3Of w) with hf | hf | hf | hf | hf | hf | hf | hf
  -- funct3 000: ECALL and EBREAK by their exact words (R88)
  case inl => simp only [decodeSystem, hf]; split_ifs <;> simp [*, eq_comm (a := k)]
  all_goals simp [decodeSystem, hf, eq_comm (a := k)]

theorem decodeOpImm_error_iff :
    decodeOpImm w = .error k ↔ k = .unknownFunct7 ∧
      ((funct3Of w = 0b001#3 ∧ funct7Of w ≠ 0b0000000#7) ∨
       (funct3Of w = 0b101#3 ∧ funct7Of w ≠ 0b0000000#7 ∧ funct7Of w ≠ 0b0100000#7)) := by
  rcases funct3_cases (funct3Of w) with hf | hf | hf | hf | hf | hf | hf | hf
  -- funct3 001 and 101: the shifts, told apart by funct7 (R87)
  case inr.inl | inr.inr.inr.inr.inr.inl => simp only [decodeOpImm, hf]; split <;> simp_all [eq_comm (a := k)]
  all_goals simp [decodeOpImm, hf]

theorem decodeOp_error_iff :
    decodeOp w = .error k ↔ k = .unknownFunct7 ∧ funct7Of w ≠ 0b0000000#7 ∧
      ¬ (funct7Of w = 0b0100000#7 ∧ funct3Of w ∈ [0b000#3, 0b101#3]) := by
  by_cases h0 : funct7Of w = 0b0000000#7
  · rcases funct3_cases (funct3Of w) with hf | hf | hf | hf | hf | hf | hf | hf <;>
      simp [decodeOp, h0, hf]
  · by_cases h32 : funct7Of w = 0b0100000#7
    · rcases funct3_cases (funct3Of w) with hf | hf | hf | hf | hf | hf | hf | hf <;>
        simp [decodeOp, h32, hf, eq_comm (a := k)]
    · unfold decodeOp
      split <;> simp_all [eq_comm (a := k)]

end ClassFaults

/-! The fields by their bits, as the statements spell them (R68). -/

theorem extractLsb'_opcode (w : Word) : w.extractLsb' 0 7 = opcodeOf w := rfl
theorem extractLsb'_funct3 (w : Word) : w.extractLsb' 12 3 = funct3Of w := rfl

/-- Settles O17: a major opcode sends the word to its class, whose decoder has the faults of its own cells of the funct3
table and never UnknownOpcode. -/
theorem unknownOpcodeAndUnknownFunct3Words : Obligations.UnknownOpcodeAndUnknownFunct3Words := by
  intro w
  simp only [extractLsb'_opcode, extractLsb'_funct3]
  cases decode_cases w with
  | lui hop hd => simp [hd, hop]
  | auipc hop hd => simp [hd, hop]
  | jal hop hd => simp [hd, hop]
  | jalr hop hf hd => simp [hd, hop, hf]
  | jalrFault hop hf hd => simp [hd, hop, hf]
  | branch hop hd => simp [hd, hop, decodeBranch_error_iff]
  | load hop hd => simp [hd, hop, decodeLoad_error_iff]
  | store hop hd => simp [hd, hop, decodeStore_error_iff]
  | opImm hop hd => simp [hd, hop, decodeOpImm_error_iff]
  | op hop hd => simp [hd, hop, decodeOp_error_iff]
  | fence hop hd => simp [hd, hop, decodeFence_error_iff]
  | system hop hd => simp [hd, hop, decodeSystem_error_iff]
  | unknown hop hd => simp_all [majorOpcodes]

/-! ## The spec's example words -/

/-- Settles O20: the decoder is run on each of the eight words. -/
theorem sampleWordsDecode : Obligations.SampleWordsDecode := by
  unfold Obligations.SampleWordsDecode
  decide

end Sys2Proof

namespace Sys2Proof.Machine

/-! ## Sign extension and offset ranges (R78 to R84) -/

section Extension
variable {n : Nat}

/-- The sign extension law at every width (R84). -/
theorem sext_eq (v : BitVec n) :
    sext v = if 2 * v.toNat < 2 ^ n then BitVec.ofNat 32 v.toNat else BitVec.ofInt 32 (v.toNat - 2 ^ n) := by
  rw [sext, BitVec.signExtend, BitVec.toInt_eq_toNat_cond]
  split
  · exact BitVec.ofInt_natCast ..
  · norm_cast

/-- Extension keeps the signed value (R13). -/
theorem toInt_sext (h : n ≤ 32) (v : BitVec n) : (sext v).toInt = v.toInt :=
  BitVec.toInt_signExtend_of_le h

/-- An even offset is an even number, in two's complement too: `2 ^ (n + 1)` is even. -/
theorem toInt_emod_two_of_evenOffset {v : BitVec (n + 1)} (h : evenOffset v = true) : v.toInt % 2 = 0 := by
  have hbit : v.toNat % 2 = 0 := by simpa [evenOffset, BitVec.getLsbD, Nat.testBit_zero] using h
  rw [BitVec.toInt_eq_toNat_cond, Nat.pow_succ]
  split <;> push_cast <;> omega

/-- An even offset of `n + 1` bits extends to an even number in `[-2 ^ n, 2 ^ n - 2]` (R80, R82). -/
theorem sext_range_of_evenOffset (hn : 0 < n) (h32 : n + 1 ≤ 32) {v : BitVec (n + 1)} (h : evenOffset v = true) :
    (sext v).toInt % 2 = 0 ∧ -2 ^ n ≤ (sext v).toInt ∧ (sext v).toInt ≤ 2 ^ n - 2 := by
  rw [toInt_sext h32]
  have heven := toInt_emod_two_of_evenOffset h
  have hlo := BitVec.le_toInt v
  have hhi := BitVec.toInt_lt (x := v)
  obtain ⟨m, rfl⟩ : ∃ m, n = m + 1 := ⟨n - 1, by omega⟩
  simp only [Nat.add_sub_cancel, pow_succ] at hlo hhi ⊢
  omega

end Extension

/-- Settles O21: the general law at the three widths, where the sign bit is clear when `v` is below half of `2 ^ n`. -/
theorem signExtensionLaw : Obligations.SignExtensionLaw := by
  refine ⟨fun v => ?_, fun v => ?_, fun v => ?_⟩
  all_goals rw [sext_eq]; exact if_congr (by omega) rfl rfl

/-- Settles O22: both offsets are even by the decoder's last bit, and have 13 and 21 bits. -/
theorem decodedOffsetsAreEvenAndInRange : Obligations.DecodedOffsetsAreEvenAndInRange := fun w =>
  ⟨sext_range_of_evenOffset (n := 12) (by decide) (by decide) (evenOffset_immBOf w),
    sext_range_of_evenOffset (n := 20) (by decide) (by decide) (evenOffset_immJOf w)⟩

/-! ## The datapath (R90, R96, R101 to R105) -/

section Datapath
variable {i : Instr} {s : State} {w : Width} {e : Ext} {rd rs1 rs2 : RegIdx} {imm : BitVec 12}

/-- Writing a register does not move the pc mux: its inputs were read before the write (R105). -/
theorem setReg_goto (s : State) (rd : RegIdx) (v : Word) (sel : PcSel) (taken : Bool) (imm base : Word) :
    (s.setReg rd v).goto sel taken imm base = (s.setReg rd v).setPc (pcMux s.config sel s.pc taken imm base) := by
  rw [State.goto, setReg_config, setReg_pc]

/-- The load path is the datapath under the signals of LOAD (R101, R125). -/
theorem loadInto_eq_datapath (hg : signalsOf i = ⟨.loadData, .load w e, none, .imm, none, .seq⟩)
    (hd : recordOf i = ⟨i.row.mnemonic, some rd, some rs1, none, some (sext imm), none, encode i⟩) :
    loadInto i w e rd rs1 imm s = .next (datapath i s) := by
  rcases loadInto_cases i w e rd rs1 imm s with ⟨k, hf, hl⟩ | ⟨hf, hl⟩
  · have hr := memRead_of_some hf
    rw [State.effAddr] at hr
    simp [hl, datapath, hg, hd, State.lsu, hr, Except.map]
  · have hr := memRead_of_none hf
    rw [hl, writeBack_eq]
    rw [State.effAddr] at hr ⊢
    simp [datapath, hg, hd, State.lsu, hr, Except.map, pcMux]

/-- The store path is the datapath under the signals of STORE (R101, R131). -/
theorem storeFrom_eq_datapath (hg : signalsOf i = ⟨.none, .store w, none, .imm, none, .seq⟩)
    (hd : recordOf i = ⟨i.row.mnemonic, none, some rs1, some rs2, some (sext imm), none, encode i⟩) :
    storeFrom i w rs1 rs2 imm s = .next (datapath i s) := by
  rcases storeFrom_cases i w rs1 rs2 imm s with ⟨k, hf, hl⟩ | ⟨hf, hl⟩
  · have hr := memWrite_of_some (v := s.reg rs2) hf
    rw [State.effAddr] at hr
    simp [hl, datapath, hg, hd, State.lsu, hr, Except.map]
  · have hr := memWrite_of_none (v := s.reg rs2) hf
    rw [hl]
    rw [State.effAddr] at hr ⊢
    simp [datapath, hg, hd, State.lsu, hr, Except.map, pcMux, State.advance, State.goto]

end Datapath

/-- Settles O54: a load or store goes through the load-store unit; a jump writes the link and then the pc, a branch and a
no-op the pc alone, and every other instruction one register and pc + 4. -/
theorem execIsTheDispatchersDatapath : Obligations.ExecIsTheDispatchersDatapath := by
  intro i s
  cases i
  case lb | lh | lw | lbu | lhu => exact loadInto_eq_datapath rfl rfl
  case sb | sh | sw => exact storeFrom_eq_datapath rfl rfl
  case jal | jalr => exact congrArg Host.Outcome.next (setReg_goto ..)
  case beq | bne | blt | bge | bltu | bgeu => rfl
  case fence | fenceI | ecall | ebreak | csrrw | csrrs | csrrc | csrrwi | csrrsi | csrrci => rfl
  all_goals exact congrArg Host.Outcome.next (writeBack_eq ..)

end Sys2Proof.Machine

/-! SUPPORT. Step and dispatch (40_step_and_dispatch.md): the step by its front end (R96, R98 to R100), and what a step
leaves unchanged (R108). -/

namespace Sys2Proof.Machine

/-! ## What the front end halts on -/

/-- A halt changes the status only (R99, R175). -/
theorem haltsWith_halt (s : State) (r : HaltReason) : HaltsWith r s (s.halt r) :=
  ⟨rfl, fun _ => rfl, rfl, fun _ => rfl, rfl, rfl⟩

/-- A step that its front end halts changes nothing but the status (R97, R99, R100). -/
theorem step_haltsWith {s : State} {r : HaltReason} (hr : Runnable s) (hf : s.frontEnd = .halt r) :
    ∃ t, step s = .next t ∧ HaltsWith r s.start t :=
  ⟨_, step_of_halt hr hf, haltsWith_halt s.start r⟩

section FrontEnd
variable {s : State} (hm : Mapped s s.pc 4) (ha : WordAligned s.pc)
include hm ha

/-- The sentinel is detected before decode (R98). -/
theorem frontEnd_of_sentinel (hw : wordAt s s.pc.toNat = s.config.sentinel) : s.frontEnd = .halt .success := by
  simp [State.frontEnd, fetch_ok s hm ha, isSentinel, hw]

/-- The decoder's fault is the front end's, with the pc and the word (R100). -/
theorem frontEnd_of_decode_error {k : FaultKind} (hn : wordAt s s.pc.toNat ≠ s.config.sentinel)
    (hd : decode (wordAt s s.pc.toNat) = .error k) :
    s.frontEnd = .halt (.fault k s.pc (some (wordAt s s.pc.toNat))) := by
  simp [State.frontEnd, fetch_ok s hm ha, isSentinel, hn, hd]

end FrontEnd

/-- Settles O9: the front end halts with success on the sentinel, and a halt changes the status only. -/
theorem sentinelHaltsWithoutAnyWrite : Obligations.SentinelHaltsWithoutAnyWrite := fun _ hr hm ha hw =>
  step_haltsWith hr (frontEnd_of_sentinel hm ha hw)

/-- Settles O10: the front end halts with the decoder's fault, and a halt changes the status only. -/
theorem decodeFaultHaltsAndMutatesNothing : Obligations.DecodeFaultHaltsAndMutatesNothing :=
  fun _ _ hr hm ha hn hd => step_haltsWith hr (frontEnd_of_decode_error hm ha hn hd)

/-- Settles O11: the front end runs the decoded instruction, and starting changes the lifecycle only. -/
theorem stepRunsTheDecodedInstruction : Obligations.StepRunsTheDecodedInstruction :=
  fun s _ hr hm ha hn hd =>
    ⟨step_of_run hr (frontEnd_of_decode hm ha hn hd), start_reg s, start_pc s, fun _ => rfl, start_config s,
      start_status s⟩

/-! ## What a step leaves unchanged (R108) -/

theorem Width.bytes_le_four (w : Width) : w.bytes ≤ 4 := by
  cases w <;> decide

/-- Every store makes a data access (R48, R56). -/
theorem accessWidth_of_isStore {i : Instr} (h : isStore i = true) : ∃ w, accessWidth i = some w := by
  cases i with
  | sb => exact ⟨.byte, rfl⟩
  | sh => exact ⟨.half, rfl⟩
  | sw => exact ⟨.word, rfl⟩
  | _ => cases h

section Frame
variable {i : Instr} {s t : State} (hwf : s.mem.wf) (h : exec i s = .next t)
include hwf h

/-- An instruction that is no store leaves every byte as it was (R48). -/
theorem exec_sameMemory_of_not_store (hs : isStore i = false) : SameMemory s t := by
  intro a
  by_contra hne
  have hstore := (onlyStoresChangeMemory i s t hwf h a hne).1
  rw [hs] at hstore
  cases hstore

/-- An instruction leaves every byte outside its own access as it was (R48). -/
theorem exec_byteAt_of_outside {w : Width} (hw : accessWidth i = some w) {b : Nat}
    (hb : b < (accessAddr i s).toNat ∨ (accessAddr i s).toNat + w.bytes ≤ b) : byteAt t b = byteAt s b := by
  by_contra hne
  obtain ⟨_, w', hw', hlo, hhi⟩ := onlyStoresChangeMemory i s t hwf h b hne
  rw [hw] at hw'
  cases hw'
  omega

end Frame

/-- A step that answers a halted core has changed no register, no byte and not the pc, whether the core was halted before
or the step halted it (R108, R194). -/
theorem step_frame_of_not_running {s t : State} (h : step s = .next t) (ht : t.status ≠ .running) :
    SameRegs s t ∧ SameMemory s t ∧ t.pc = s.pc := by
  rcases step_cases h with ⟨_, _, rfl⟩ | ⟨_, _, _, rfl⟩ | ⟨hr, _⟩
  · exact ⟨fun _ => rfl, fun _ => rfl, rfl⟩
  · exact ⟨fun _ => rfl, fun _ => rfl, rfl⟩
  · obtain ⟨_, rfl⟩ := step_halts hr h ht
    exact ⟨fun _ => rfl, fun _ => rfl, rfl⟩

/-- Settles O58: a step that continues is its instruction, whose frame is that of one destination register and one data
access; a step that halts has only set the status. -/
theorem stepChangesOneRegisterAndFourBytesAtMost : Obligations.StepChangesOneRegisterAndFourBytesAtMost := by
  intro s t hwf h
  refine ⟨fun hc => ?_, fun r hr => ?_⟩
  · obtain ⟨i, hd, he⟩ := step_continue h hc
    refine ⟨reg_zero t, outcome_continue.1 hc, i, hd, fun r => exec_reg_of_not_dest (s := s.start) he,
      exec_sameMemory_of_not_store (s := s.start) hwf he, fun hs => ?_⟩
    obtain ⟨w, hw⟩ := accessWidth_of_isStore hs
    exact ⟨w, hw, w.bytes_le_four, fun b => exec_byteAt_of_outside (s := s.start) hwf he hw⟩
  · have ht : t.status = .halted r := outcome_halt.1 hr
    exact ⟨ht, step_frame_of_not_running h (by rw [ht]; nofun)⟩

end Sys2Proof.Machine

/-! SUPPORT. Upper immediates (41_upper_immediate.md): LUI (R113) and AUIPC (R114). Each is one write-back, of the upper
immediate (R81) or of its sum with the pc. -/

namespace Sys2Proof.Machine

/-- A write-back is the register write with its whole frame, x0 included (R26, R103). -/
theorem writeBack_writesRegister (s : State) (rd : RegIdx) (v : Word) :
    WritesRegister rd v (s.pc + 4#32) s (s.writeBack rd v) :=
  ⟨writeBack_reg s rd v, writeBack_pc s rd v, fun a => congrArg (·.read a) (writeBack_mem s rd v),
    writeBack_config s rd v, writeBack_status s rd v, writeBack_lifecycle s rd v⟩

/-- Twelve zeros below the 20 bits are a shift by 12 (R81). -/
theorem immU_eq_shiftLeft (imm : BitVec 20) : immU imm = imm.setWidth 32 <<< 12 := by
  rw [immU, BitVec.append_def, BitVec.setWidth'_eq, BitVec.setWidth_zero, BitVec.or_zero,
    BitVec.shiftLeftZeroExtend_eq]

/-- Settles O31: the word is the encoding of LUI, and LUI is the write-back of its upper immediate. -/
theorem luiWritesTheShiftedImmediate : Obligations.LuiWritesTheShiftedImmediate := by
  intro rd imm s
  refine ⟨decodeOfEncodeIsTheInstruction (.lui rd imm) rfl, s.writeBack rd (immU imm), rfl, ?_⟩
  rw [← immU_eq_shiftLeft]
  exact writeBack_writesRegister s rd (immU imm)

/-- Settles O32: the word is the encoding of AUIPC, and AUIPC is the write-back of pc plus its upper immediate. -/
theorem auipcAddsTheShiftedImmediateToPc : Obligations.AuipcAddsTheShiftedImmediateToPc := by
  intro rd imm s
  refine ⟨decodeOfEncodeIsTheInstruction (.auipc rd imm) rfl, s.writeBack rd (s.pc + immU imm), rfl, ?_⟩
  rw [← immU_eq_shiftLeft]
  exact writeBack_writesRegister s rd (s.pc + immU imm)

end Sys2Proof.Machine

/-! SUPPORT. Control transfer (42_control_transfer.md): the branch and jump words by the bits of their offsets (R72, R74), the
comparator as a proposition (R118), and the two shapes of a transfer: a link and a jump (R115, R117), a branch (R118). -/

namespace Sys2Proof

/-! ## Words by the bits of the offset (R72, R74) -/

theorem evenOffset_append_zero {n : Nat} (v : BitVec n) : evenOffset (v ++ 0#1) = true := by
  rw [evenOffset, BitVec.getLsbD_append]
  simp

/-- The B-type word with the offset's bits in their places (R72). -/
theorem bType_append (i12 i11 : BitVec 1) (i10_5 : BitVec 6) (i4_1 : BitVec 4) (rs2 rs1 : RegIdx) (funct3 : BitVec 3)
    (opcode : BitVec 7) :
    bType (i12 ++ i11 ++ i10_5 ++ i4_1 ++ 0#1) rs2 rs1 funct3 opcode =
      i12 ++ i10_5 ++ rs2 ++ rs1 ++ funct3 ++ i4_1 ++ i11 ++ opcode := by
  apply BitVec.eq_of_getLsbD_eq
  intro i hi
  simp only [bType, BitVec.getLsbD_extractLsb', BitVec.getLsbD_append]
  interval_cases i <;> simp

/-- The J-type word with the offset's bits in their places (R74). -/
theorem jType_append (i20 i11 : BitVec 1) (i10_1 : BitVec 10) (i19_12 : BitVec 8) (rd : RegIdx) (opcode : BitVec 7) :
    jType (i20 ++ i19_12 ++ i11 ++ i10_1 ++ 0#1) rd opcode = i20 ++ i10_1 ++ i11 ++ i19_12 ++ rd ++ opcode := by
  apply BitVec.eq_of_getLsbD_eq
  intro i hi
  simp only [jType, BitVec.getLsbD_extractLsb', BitVec.getLsbD_append]
  interval_cases i <;> simp

/-- A word with the bits of a branch offset decodes to the instruction it encodes (R72, R86). -/
theorem decode_branchWord {i : Instr} {i12 i11 : BitVec 1} {i10_5 : BitVec 6} {i4_1 : BitVec 4} {rs2 rs1 : RegIdx}
    {funct3 : BitVec 3} (hwf : i.wf = evenOffset (i12 ++ i11 ++ i10_5 ++ i4_1 ++ 0#1))
    (he : encode i = bType (i12 ++ i11 ++ i10_5 ++ i4_1 ++ 0#1) rs2 rs1 funct3 0b1100011#7) :
    decode (i12 ++ i10_5 ++ rs2 ++ rs1 ++ funct3 ++ i4_1 ++ i11 ++ 0b1100011#7) = .ok i := by
  rw [← bType_append, ← he]
  exact decodeOfEncodeIsTheInstruction i (hwf.trans (evenOffset_append_zero _))

end Sys2Proof

namespace Sys2Proof.Machine

/-! ## The branch comparator (R118) -/

section Comparator
variable (a b : Word)

theorem holds_eq_iff : Cond.eq.holds a b = true ↔ a = b := beq_iff_eq
theorem holds_ne_iff : Cond.ne.holds a b = true ↔ a ≠ b := bne_iff_ne
theorem holds_lt_iff : Cond.lt.holds a b = true ↔ a.toInt < b.toInt := decide_eq_true_iff
theorem holds_ge_iff : Cond.ge.holds a b = true ↔ a.toInt ≥ b.toInt := by simp [Cond.holds, signedLt]
theorem holds_ltu_iff : Cond.ltu.holds a b = true ↔ a.toNat < b.toNat := decide_eq_true_iff
theorem holds_geu_iff : Cond.geu.holds a b = true ↔ a.toNat ≥ b.toNat := by simp [Cond.holds, unsignedLt]

end Comparator

/-! ## The two shapes of a control transfer -/

/-- A PC write changes the pc only (R31). -/
theorem setPc_writesOnlyPc (s : State) (next : Word) : WritesOnlyPc next s (s.setPc next) :=
  ⟨setPc_reg s next, rfl, fun _ => rfl, rfl, rfl, rfl⟩

/-- A branch changes the pc only, to one of two values by its condition; it does not look at the target (R32, R118). -/
theorem branchOn_writesOnlyPc (rs1 rs2 : RegIdx) (offset : BitVec 13) (s : State) {c : Cond} {p : Prop} [Decidable p]
    (hc : c.holds (s.reg rs1) (s.reg rs2) = true ↔ p) :
    ∃ t, branchOn c rs1 rs2 offset s = .next t ∧
      WritesOnlyPc (if p then s.pc + offset.signExtend 32 else s.pc + 4#32) s t ∧ BadPcFaultsAtFetch t := by
  rw [← if_congr hc rfl rfl]
  exact ⟨_, rfl, setPc_writesOnlyPc s _, badPc_faultsAtFetch _⟩

/-- A link and a jump change rd and the pc only; the inputs of the pc mux are those of before the link (R105), and the
target is not looked at (R32). -/
theorem link_goto_writesRegister (s : State) (rd : RegIdx) (v : Word) (sel : PcSel) (taken : Bool) (imm base : Word) :
    WritesRegister rd v (pcMux s.config sel s.pc taken imm base) s ((s.setReg rd v).goto sel taken imm base) ∧
      BadPcFaultsAtFetch ((s.setReg rd v).goto sel taken imm base) := by
  rw [setReg_goto]
  exact ⟨⟨fun r => reg_setReg s rd r v, rfl, fun a => congrArg (·.read a) (setReg_mem s rd v), setReg_config s rd v,
    setReg_status s rd v, setReg_lifecycle s rd v⟩, badPc_faultsAtFetch _⟩

/-! ## Jumps -/

/-- Settles O33: the word is the encoding of JAL, and JAL is a link and a jump. -/
theorem jalLinksAndJumpsRelative : Obligations.JalLinksAndJumpsRelative := by
  refine ⟨fun i20 i11 i10_1 i19_12 rd => ?_, fun rd offset s => ⟨_, rfl, link_goto_writesRegister ..⟩⟩
  rw [← jType_append]
  exact decodeOfEncodeIsTheInstruction (.jal rd _) (evenOffset_append_zero _)

/-- Settles O34: the word is the encoding of JALR, its opcode with another funct3 is no instruction, and JALR is a link and
a jump that reads x[rs1] before the link is written. -/
theorem jalrLinksAndJumpsThroughTheOldRegister : Obligations.JalrLinksAndJumpsThroughTheOldRegister := by
  refine ⟨fun imm rs1 rd => decodeOfEncodeIsTheInstruction (.jalr rd rs1 imm) rfl, fun imm rs1 rd f3 hf => ?_,
    fun rd rs1 imm s => ⟨_, rfl, link_goto_writesRegister ..⟩⟩
  have hfunct3 : funct3Of (iType imm rs1 f3 rd 0x67#7) ≠ 0b000#3 := by rwa [funct3Of_iType]
  exact decode_jalr_fault (opcodeOf_iType imm rs1 f3 rd 0x67#7) hfunct3

/-! ## Branches -/

/-- Settles O35: the words are the encodings of BEQ and BNE, which branch on equality and on its negation. -/
theorem beqAndBneBranchOnEquality : Obligations.BeqAndBneBranchOnEquality :=
  ⟨fun _ _ _ _ _ _ => ⟨decode_branchWord rfl rfl, decode_branchWord rfl rfl⟩, fun rs1 rs2 offset s =>
    ⟨branchOn_writesOnlyPc rs1 rs2 offset s (holds_eq_iff ..), branchOn_writesOnlyPc rs1 rs2 offset s (holds_ne_iff ..)⟩⟩

/-- Settles O36: the words are the encodings of BLT and BGE, which branch on the signed order and on its negation. -/
theorem bltAndBgeBranchOnSignedOrder : Obligations.BltAndBgeBranchOnSignedOrder :=
  ⟨fun _ _ _ _ _ _ => ⟨decode_branchWord rfl rfl, decode_branchWord rfl rfl⟩, fun rs1 rs2 offset s =>
    ⟨branchOn_writesOnlyPc rs1 rs2 offset s (holds_lt_iff ..), branchOn_writesOnlyPc rs1 rs2 offset s (holds_ge_iff ..)⟩⟩

/-- Settles O37: the words are the encodings of BLTU and BGEU, which branch on the unsigned order and on its negation. -/
theorem bltuAndBgeuBranchOnUnsignedOrder : Obligations.BltuAndBgeuBranchOnUnsignedOrder :=
  ⟨fun _ _ _ _ _ _ => ⟨decode_branchWord rfl rfl, decode_branchWord rfl rfl⟩, fun rs1 rs2 offset s =>
    ⟨branchOn_writesOnlyPc rs1 rs2 offset s (holds_ltu_iff ..), branchOn_writesOnlyPc rs1 rs2 offset s (holds_geu_iff ..)⟩⟩

end Sys2Proof.Machine

/-! SUPPORT. Load and store (43_load_store.md): the two ways of the load path (R125) and the fault of the store path (R131),
each with its frame, and what a load's extension makes of the bytes read. The store that goes through is `storeFrom_ok`. -/

namespace Sys2Proof.Machine

/-! ## Extending what was read (R125) -/

section Extend
variable (b : Byte) (h : BitVec 16)

theorem extend_byte_signed : extend .byte .signed (b.setWidth 32) = b.signExtend 32 := by simp [extend, sext]
theorem extend_byte_unsigned : extend .byte .unsigned (b.setWidth 32) = b.setWidth 32 := by simp [extend, zext]
theorem extend_half_signed : extend .half .signed (h.setWidth 32) = h.signExtend 32 := by simp [extend, sext]
theorem extend_half_unsigned : extend .half .unsigned (h.setWidth 32) = h.setWidth 32 := by simp [extend, zext]

end Extend

/-! ## The load path and the store path (R125, R131) -/

section Paths
variable {i : Instr} {w : Width} {rs1 : RegIdx} {imm : BitVec 12} {s : State}

/-- A load whose read answers `v` writes `v` extended, x0 included, and goes on (R125, R135). -/
theorem loadInto_writesRegister {e : Ext} {rd : RegIdx} {v x : Word} (hr : s.memRead (s.effAddr rs1 imm) w = .ok v)
    (hx : extend w e v = x) :
    ∃ t, loadInto i w e rd rs1 imm s = .next t ∧ WritesRegister rd x (s.pc + 4#32) s t := by
  subst hx
  exact ⟨s.writeBack rd (extend w e v), by simp [loadInto, hr], writeBack_writesRegister ..⟩

/-- A load whose access raises a fault takes it, also for x0, and changes nothing else (R102, R125, R135). -/
theorem loadInto_haltsWith {e : Ext} {rd : RegIdx} {k : FaultKind}
    (hf : accessFault s.config (s.effAddr rs1 imm) w = some k) :
    ∃ t, loadInto i w e rd rs1 imm s = .next t ∧ HaltsWith (.fault k s.pc (some (encode i))) s t :=
  ⟨s.takeFault k (some (encode i)), by simp [loadInto, memRead_of_some hf], haltsWith_halt s _⟩

/-- A store whose access raises a fault takes it and changes no byte (R59, R102, R131). -/
theorem storeFrom_haltsWith {rs2 : RegIdx} {k : FaultKind}
    (hf : accessFault s.config (s.effAddr rs1 imm) w = some k) :
    ∃ t, storeFrom i w rs1 rs2 imm s = .next t ∧ HaltsWith (.fault k s.pc (some (encode i))) s t :=
  ⟨s.takeFault k (some (encode i)), by simp [storeFrom, memWrite_of_some hf], haltsWith_halt s _⟩

end Paths

/-! ## Loads -/

/-- Settles O38: the words are the encodings of LB and LBU, and a mapped byte is read and extended. -/
theorem byteLoadsExtendOrFault : Obligations.ByteLoadsExtendOrFault := by
  intro imm rs1 rd s
  refine ⟨decodeOfEncodeIsTheInstruction (.lb rd rs1 imm) rfl, decodeOfEncodeIsTheInstruction (.lbu rd rs1 imm) rfl,
    fun hm => ?_, fun hm => ?_⟩
  · have hr := memRead_byte hm
    exact ⟨loadInto_writesRegister hr (extend_byte_signed _), loadInto_writesRegister hr (extend_byte_unsigned _)⟩
  · have hf := accessFault_of_not_mapped (w := .byte) hm
    exact ⟨loadInto_haltsWith hf, loadInto_haltsWith hf⟩

/-- Settles O39: the words are the encodings of LH and LHU, and two mapped bytes are read and extended, at an odd address
too: a halfword read asks for no alignment. -/
theorem halfwordLoadsExtendOrFault : Obligations.HalfwordLoadsExtendOrFault := by
  intro imm rs1 rd s
  refine ⟨decodeOfEncodeIsTheInstruction (.lh rd rs1 imm) rfl, decodeOfEncodeIsTheInstruction (.lhu rd rs1 imm) rfl,
    fun hm => ?_, fun hm => ?_⟩
  · have hr := memRead_half hm
    exact ⟨loadInto_writesRegister hr (extend_half_signed _), loadInto_writesRegister hr (extend_half_unsigned _)⟩
  · have hf := accessFault_of_not_mapped (w := .half) hm
    exact ⟨loadInto_haltsWith hf, loadInto_haltsWith hf⟩

/-- Settles O40: the word is the encoding of LW, and its access goes through, is out of bounds, or is misaligned. -/
theorem lwLoadsTheWordOrFaults : Obligations.LwLoadsTheWordOrFaults := by
  intro imm rs1 rd s
  refine ⟨decodeOfEncodeIsTheInstruction (.lw rd rs1 imm) rfl, fun hm ha => ?_, fun hm => ?_, fun hm ha => ?_⟩
  · exact loadInto_writesRegister (memRead_word hm ha) rfl
  · exact loadInto_haltsWith (accessFault_of_not_mapped (w := .word) hm)
  · exact loadInto_haltsWith (accessFault_of_misaligned hm ha)

/-! ## Stores -/

/-- Settles O41: the word is the encoding of SB, and its access goes through or is out of bounds. -/
theorem sbStoresOneByteOrFaults : Obligations.SbStoresOneByteOrFaults := by
  intro imm rs2 rs1 s hwf
  refine ⟨decodeOfEncodeIsTheInstruction (.sb rs1 rs2 imm) rfl, fun hm => ?_, fun hm => ?_⟩
  · exact storeFrom_ok hwf (accessFault_of_ok (w := .byte) hm nofun)
  · exact storeFrom_haltsWith (accessFault_of_not_mapped (w := .byte) hm)

/-- Settles O42: the word is the encoding of SH, and its access, which asks for no alignment, goes through or is out of
bounds. -/
theorem shStoresTwoBytesOrFaults : Obligations.ShStoresTwoBytesOrFaults := by
  intro imm rs2 rs1 s hwf
  refine ⟨decodeOfEncodeIsTheInstruction (.sh rs1 rs2 imm) rfl, fun hm => ?_, fun hm => ?_⟩
  · exact storeFrom_ok hwf (accessFault_of_ok (w := .half) hm nofun)
  · exact storeFrom_haltsWith (accessFault_of_not_mapped (w := .half) hm)

/-- Settles O43: the word is the encoding of SW, and its access goes through, is out of bounds, or is misaligned. -/
theorem swStoresFourBytesOrFaults : Obligations.SwStoresFourBytesOrFaults := by
  intro imm rs2 rs1 s hwf
  refine ⟨decodeOfEncodeIsTheInstruction (.sw rs1 rs2 imm) rfl, fun hm ha => ?_, fun hm => ?_, fun hm ha => ?_⟩
  · exact storeFrom_ok hwf (accessFault_of_ok (w := .word) hm fun _ => ha)
  · exact storeFrom_haltsWith (accessFault_of_not_mapped (w := .word) hm)
  · exact storeFrom_haltsWith (accessFault_of_misaligned hm ha)

end Sys2Proof.Machine

/-! SUPPORT. ALU (44_alu.md): the decode faults of the two ALU classes (R157), what the ALU computes as the statements write
it (R136), and the one shape of an ALU instruction: a write-back of the ALU's result (R137 to R155). -/

namespace Sys2Proof

/-! ## The decode faults of IMM and OP (R157) -/

theorem extractLsb'_funct7 (w : Word) : w.extractLsb' 25 7 = funct7Of w := rfl

/-- Settles O18: the opcode sends the word to the decoder of IMM or of OP, whose only fault is UnknownFunct7, at the cells
that its fault lemma lists. -/
theorem aluClassDecodeFaults : Obligations.AluClassDecodeFaults := by
  intro w h
  simp only [extractLsb'_opcode, extractLsb'_funct3, extractLsb'_funct7] at h ⊢
  rcases h with hop | hop
  · simp [hop, decode_opImm hop, decodeOpImm_error_iff]
  · simp [hop, decode_op hop, decodeOp_error_iff]

/-- A shift word of IMM with a funct7 that its funct3 does not have is no instruction (R75, R87). -/
theorem decode_opImm_rType_fault {f7 : BitVec 7} {shamt rs1 rd : RegIdx} {f3 : BitVec 3}
    (h : (f3 = 0b001#3 ∧ f7 ≠ 0b0000000#7) ∨ (f3 = 0b101#3 ∧ f7 ≠ 0b0000000#7 ∧ f7 ≠ 0b0100000#7)) :
    decode (rType f7 shamt rs1 f3 rd 0x13#7) = .error .unknownFunct7 := by
  rw [decode_opImm (opcodeOf_rType ..), decodeOpImm_error_iff, funct3Of_rType, funct7Of_rType]
  exact ⟨rfl, h⟩

end Sys2Proof

namespace Sys2Proof.Machine

/-! ## What the ALU computes (R136) -/

section Alu
variable (a b : Word)

/-- The shift amount is the second operand modulo 32 (R136). -/
theorem shiftAmount_eq_mod : shiftAmount b = b.toNat % 32 := by simp [shiftAmount]

/-- A shift amount of 5 bits is used as it stands (R75, R136). -/
theorem shiftAmount_zext (shamt : BitVec 5) : shiftAmount (zext shamt) = shamt.toNat := by
  rw [shiftAmount_eq_mod, zext, BitVec.toNat_setWidth]
  omega

/-- A condition written into a register is its 0 or 1 (R15). -/
theorem boolWord_decide (p : Prop) [Decidable p] : boolWord (decide p) = if p then 1#32 else 0#32 := by
  simp [boolWord]

/-- ADD is the integer sum modulo 2^32 (R136). -/
theorem alu_add : alu .add a b = BitVec.ofNat 32 (a.toNat + b.toNat) := BitVec.add_def ..

/-- SUB is the integer difference modulo 2^32 (R136). -/
theorem alu_sub : alu .sub a b = BitVec.ofInt 32 (a.toNat - b.toNat) := by
  apply BitVec.eq_of_toNat_eq
  rw [alu, BitVec.toNat_sub, BitVec.toNat_ofInt]
  omega

/-- SLT compares as signed (R136). -/
theorem alu_slt : alu .slt a b = if a.toInt < b.toInt then 1#32 else 0#32 := boolWord_decide _

/-- SLTU compares as unsigned (R136). -/
theorem alu_sltu : alu .sltu a b = if a.toNat < b.toNat then 1#32 else 0#32 := boolWord_decide _

theorem alu_sll : alu .sll a b = a <<< (b.toNat % 32) := by rw [← shiftAmount_eq_mod, alu]
theorem alu_srl : alu .srl a b = a >>> (b.toNat % 32) := by rw [← shiftAmount_eq_mod, alu]
theorem alu_sra : alu .sra a b = a.sshiftRight (b.toNat % 32) := by rw [← shiftAmount_eq_mod, alu]

end Alu

/-! ## The shape of an ALU instruction (R101, R137 to R155) -/

section Shape
variable {op : AluOp} {rd rs1 rs2 : RegIdx} {s : State} {b v : Word}

/-- An IMM instruction whose ALU result is `v` writes `v`, x0 included, and goes on. -/
theorem aluImm_writesRegister (hv : alu op (s.reg rs1) b = v) :
    ∃ t, aluImm op rd rs1 b s = .next t ∧ WritesRegister rd v (s.pc + 4#32) s t :=
  ⟨_, rfl, hv ▸ writeBack_writesRegister ..⟩

/-- An OP instruction whose ALU result is `v` writes `v`, x0 included, and goes on. -/
theorem aluReg_writesRegister (hv : alu op (s.reg rs1) (s.reg rs2) = v) :
    ∃ t, aluReg op rd rs1 rs2 s = .next t ∧ WritesRegister rd v (s.pc + 4#32) s t :=
  aluImm_writesRegister hv

end Shape

/-! ## Register-immediate instructions -/

/-- Settles O44: the words are the encodings of the four instructions, and each writes the ALU's result of x[rs1] and the
sign-extended immediate. -/
theorem addiXoriOriAndiWriteTheResult : Obligations.AddiXoriOriAndiWriteTheResult := fun imm rs1 rd _ =>
  ⟨decodeOfEncodeIsTheInstruction (.addi rd rs1 imm) rfl, decodeOfEncodeIsTheInstruction (.xori rd rs1 imm) rfl,
    decodeOfEncodeIsTheInstruction (.ori rd rs1 imm) rfl, decodeOfEncodeIsTheInstruction (.andi rd rs1 imm) rfl,
    aluImm_writesRegister rfl, aluImm_writesRegister rfl, aluImm_writesRegister rfl, aluImm_writesRegister rfl⟩

/-- Settles O45: sign extension keeps the signed value, so SLTI compares with the immediate itself; SLTIU compares with the
extended immediate read as unsigned. -/
theorem sltiSltiuWriteTheComparison : Obligations.SltiSltiuWriteTheComparison := by
  intro imm rs1 rd s
  refine ⟨decodeOfEncodeIsTheInstruction (.slti rd rs1 imm) rfl, decodeOfEncodeIsTheInstruction (.sltiu rd rs1 imm) rfl,
    ?_, aluImm_writesRegister (alu_sltu ..)⟩
  rw [← toInt_sext (by decide) imm]
  exact aluImm_writesRegister (alu_slt ..)

/-- Settles O46: the words are the encodings of the three shifts, whose amount is `shamt` itself; with another funct7 the
decoder of IMM has its fault. -/
theorem shiftImmediatesWriteTheShiftedValue : Obligations.ShiftImmediatesWriteTheShiftedValue := by
  refine ⟨fun shamt rs1 rd s => ?_, fun f7 shamt rs1 rd h0 => ⟨?_, fun h32 => ?_⟩⟩
  · rw [← shiftAmount_zext shamt]
    exact ⟨decodeOfEncodeIsTheInstruction (.slli rd rs1 shamt) rfl,
      decodeOfEncodeIsTheInstruction (.srli rd rs1 shamt) rfl, decodeOfEncodeIsTheInstruction (.srai rd rs1 shamt) rfl,
      aluImm_writesRegister rfl, aluImm_writesRegister rfl, aluImm_writesRegister rfl⟩
  · exact decode_opImm_rType_fault (.inl ⟨rfl, h0⟩)
  · exact decode_opImm_rType_fault (.inr ⟨rfl, h0, h32⟩)

/-! ## Register-register instructions -/

/-- Settles O47: the words are the encodings of ADD and SUB, whose ALU results are the sum and the difference modulo 2^32. -/
theorem addSubWriteTheWrappedResult : Obligations.AddSubWriteTheWrappedResult := fun rs2 rs1 rd _ =>
  ⟨decodeOfEncodeIsTheInstruction (.add rd rs1 rs2) rfl, decodeOfEncodeIsTheInstruction (.sub rd rs1 rs2) rfl,
    aluReg_writesRegister (alu_add ..), aluReg_writesRegister (alu_sub ..)⟩

/-- Settles O48: the words are the encodings of XOR, OR and AND, and each writes the ALU's bitwise result. -/
theorem xorOrAndWriteTheBitwiseResult : Obligations.XorOrAndWriteTheBitwiseResult := fun rs2 rs1 rd _ =>
  ⟨decodeOfEncodeIsTheInstruction (.xor rd rs1 rs2) rfl, decodeOfEncodeIsTheInstruction (.or rd rs1 rs2) rfl,
    decodeOfEncodeIsTheInstruction (.and rd rs1 rs2) rfl, aluReg_writesRegister rfl, aluReg_writesRegister rfl,
    aluReg_writesRegister rfl⟩

/-- Settles O49: the words are the encodings of SLT and SLTU, whose ALU results are the two comparisons. -/
theorem sltSltuWriteTheComparison : Obligations.SltSltuWriteTheComparison := fun rs2 rs1 rd _ =>
  ⟨decodeOfEncodeIsTheInstruction (.slt rd rs1 rs2) rfl, decodeOfEncodeIsTheInstruction (.sltu rd rs1 rs2) rfl,
    aluReg_writesRegister (alu_slt ..), aluReg_writesRegister (alu_sltu ..)⟩

/-- Settles O50: the words are the encodings of SLL, SRL and SRA, which shift by x[rs2] modulo 32. -/
theorem registerShiftsUseTheLowFiveBits : Obligations.RegisterShiftsUseTheLowFiveBits := fun rs2 rs1 rd _ =>
  ⟨decodeOfEncodeIsTheInstruction (.sll rd rs1 rs2) rfl, decodeOfEncodeIsTheInstruction (.srl rd rs1 rs2) rfl,
    decodeOfEncodeIsTheInstruction (.sra rd rs1 rs2) rfl, aluReg_writesRegister (alu_sll ..),
    aluReg_writesRegister (alu_srl ..), aluReg_writesRegister (alu_sra ..)⟩

end Sys2Proof.Machine

/-! SUPPORT. MISC-FENCE and SYSTEM (45_system_fence.md): the SYSTEM words that are no instruction (R162, R170), and the one
shape of the others: a step that writes the pc only (R158 to R169). -/

namespace Sys2Proof

/-! ## The words of SYSTEM -/

/-- A word decodes to a well-formed instruction exactly when it is the instruction's encoding (R89). -/
theorem decode_eq_ok_iff {w : Word} {i : Instr} (hwf : i.wf = true) : decode w = .ok i ↔ w = encode i := by
  refine ⟨fun h => (encodeOfDecodeIsTheWord w i h).2.symm, fun h => ?_⟩
  rw [h]
  exact decodeOfEncodeIsTheInstruction i hwf

section SystemFaults
variable {w : Word} (hop : opcodeOf w = 0x73#7)
include hop

/-- SYSTEM with funct3 000 has two words only (R88, R162). -/
theorem decode_system_unknownFunct7 (hf : funct3Of w = 0b000#3) (hecall : w ≠ 0x00000073#32)
    (hebreak : w ≠ 0x00100073#32) : decode w = .error .unknownFunct7 :=
  (decode_system hop).trans (decodeSystem_error_iff.2 (.inr ⟨rfl, hf, hecall, hebreak⟩))

/-- SYSTEM with funct3 100 names no instruction (R170). -/
theorem decode_system_unknownFunct3 (hf : funct3Of w = 0b100#3) : decode w = .error .unknownFunct3 :=
  (decode_system hop).trans (decodeSystem_error_iff.2 (.inl ⟨rfl, hf⟩))

end SystemFaults

/-- The words of ECALL and EBREAK have funct7 0, so an R-type SYSTEM word with another funct7 is neither of them; the
SFENCE.VMA words are of this form (R162). -/
theorem decode_system_rType_fault {f7 : BitVec 7} {rs2 rs1 rd : RegIdx} (h : f7 ≠ 0b0000000#7) :
    decode (rType f7 rs2 rs1 0b000#3 rd 0x73#7) = .error .unknownFunct7 := by
  have hne : ∀ v : Word, funct7Of v = 0b0000000#7 → rType f7 rs2 rs1 0b000#3 rd 0x73#7 ≠ v := by
    rintro _ hv rfl
    exact h ((funct7Of_rType ..).symm.trans hv)
  exact decode_system_unknownFunct7 (opcodeOf_rType ..) (funct3Of_rType ..) (hne _ rfl) (hne _ rfl)

end Sys2Proof

namespace Sys2Proof.Machine

/-- Settles O19: the decoder of SYSTEM has the fault, and a step with a decode fault halts and changes nothing else. -/
theorem otherSystemWordsFault : Obligations.OtherSystemWordsFault := by
  refine ⟨fun s hr hm ha hn hop hf hecall hebreak => ?_, fun s hr hm ha hn hop hf => ?_, fun w hw => ?_,
    fun rs2 rs1 rd => decode_system_rType_fault (by decide)⟩
  · exact decodeFaultHaltsAndMutatesNothing s _ hr hm ha hn (decode_system_unknownFunct7 hop hf hecall hebreak)
  · exact decodeFaultHaltsAndMutatesNothing s _ hr hm ha hn (decode_system_unknownFunct3 hop hf)
  · simp only [List.mem_cons, List.not_mem_nil, or_false] at hw
    rcases hw with rfl | rfl | rfl | rfl | rfl <;>
      exact decode_system_unknownFunct7 rfl rfl (by decide) (by decide)

/-! ## Instructions that only advance the pc (R158 to R169) -/

/-- The shared meaning of MISC-FENCE and SYSTEM writes the pc only (R101). -/
theorem advance_writesOnlyPc (s : State) :
    ∃ t, (.next s.advance : Result) = .next t ∧ WritesOnlyPc (s.pc + 4#32) s t :=
  ⟨s.advance, rfl, setPc_writesOnlyPc s (s.pc + 4#32)⟩

/-- Settles O52: each of the two words is the encoding of its instruction, whose meaning is the advance of the pc; on the
sentinel the step halts before decode, whatever the word. -/
theorem ecallEbreakOnlyAdvanceThePc : Obligations.EcallEbreakOnlyAdvanceThePc := by
  refine ⟨fun w => ⟨decode_eq_ok_iff rfl, decode_eq_ok_iff rfl⟩,
    fun s => ⟨advance_writesOnlyPc s, advance_writesOnlyPc s⟩, fun s hr hm ha _ hw => ?_⟩
  obtain ⟨t, hstep, hstatus, _, hpc, _⟩ := sentinelHaltsWithoutAnyWrite s hr hm ha hw
  exact ⟨t, hstep, outcome_halt.2 hstatus, hpc⟩

/-- Settles O51: the words are the encodings of FENCE and FENCE.I, whose meaning is the advance of the pc. -/
theorem fencesOnlyAdvanceThePc : Obligations.FencesOnlyAdvanceThePc := fun fm pred succ imm rs1 rd s =>
  ⟨decodeOfEncodeIsTheInstruction (.fence fm pred succ rs1 rd) rfl,
    decodeOfEncodeIsTheInstruction (.fenceI imm rs1 rd) rfl, advance_writesOnlyPc s, advance_writesOnlyPc s⟩

/-- Settles O53: the words are the encodings of the six CSR instructions, whose meaning is the advance of the pc. -/
theorem csrInstructionsOnlyAdvanceThePc : Obligations.CsrInstructionsOnlyAdvanceThePc := fun csr rs1 rd uimm s =>
  ⟨decodeOfEncodeIsTheInstruction (.csrrw rd rs1 csr) rfl, decodeOfEncodeIsTheInstruction (.csrrs rd rs1 csr) rfl,
    decodeOfEncodeIsTheInstruction (.csrrc rd rs1 csr) rfl, decodeOfEncodeIsTheInstruction (.csrrwi rd uimm csr) rfl,
    decodeOfEncodeIsTheInstruction (.csrrsi rd uimm csr) rfl, decodeOfEncodeIsTheInstruction (.csrrci rd uimm csr) rfl,
    advance_writesOnlyPc s, advance_writesOnlyPc s, advance_writesOnlyPc s, advance_writesOnlyPc s,
    advance_writesOnlyPc s, advance_writesOnlyPc s⟩

end Sys2Proof.Machine

/-! SUPPORT. Exceptions (60_exceptions.md): the data access of an instruction decides whether the instruction halts
(R172, R173, R175), and the checks of a step come in the order fetch, sentinel, decoder, data access (R174). -/

namespace Sys2Proof.Machine

/-! ## An instruction halts by the fault of its own data access only (R172, R173, R175) -/

section Access
variable {i : Instr} {s t : State} (h : exec i s = .next t)
include h

/-- An instruction with no data access, or with one that raises nothing, leaves the status (R101, R103). -/
theorem exec_status_of_no_fault
    (hf : ∀ w, accessWidth i = some w → accessFault s.config (accessAddr i s) w = none) : t.status = s.status := by
  cases exec_cases h with
  | write _ _ _ _ _ ht => subst ht; exact setReg_status ..
  | jump _ _ _ _ ht => subst ht; rfl
  | store _ _ _ _ _ _ ht => subst ht; rfl
  | fault w _ hw hk _ => rw [hf w hw] at hk; cases hk

/-- An instruction whose data access raises a fault halts with it and changes nothing else (R102, R175). -/
theorem exec_haltsWith_of_fault {w : Width} {k : FaultKind} (hw : accessWidth i = some w)
    (hk : accessFault s.config (accessAddr i s) w = some k) : HaltsWith (.fault k s.pc (some (encode i))) s t := by
  cases exec_cases h with
  | write _ _ _ _ hf _ => rw [hf w hw] at hk; cases hk
  | jump _ _ hw' _ _ => rw [hw'] at hw; cases hw
  | store w' _ _ _ hw' hf _ =>
    cases hw'.symm.trans hw
    rw [hf] at hk; cases hk
  | fault w' k' hw' hk' ht =>
    cases hw'.symm.trans hw
    cases hk'.symm.trans hk
    subst ht
    exact haltsWith_halt s _

end Access

/-- Settles O27: an instruction without a data access leaves the status, and one with an access goes one of the three
ways of that access. -/
theorem onlyDataAccessesFaultInExecution : Obligations.OnlyDataAccessesFaultInExecution := by
  intro i s t h
  cases hw : accessWidth i with
  | none => exact .inl (exec_status_of_no_fault h (by simp [hw]))
  | some w =>
    rcases accessFault_cases s (accessAddr i s) w with ⟨hm, hk⟩ | ⟨rfl, hm, ha, hk⟩ | ⟨_, _, hk⟩
    · exact .inr ⟨_, w, rfl, exec_haltsWith_of_fault h hw hk, .inl ⟨rfl, hm⟩⟩
    · exact .inr ⟨_, _, rfl, exec_haltsWith_of_fault h hw hk, .inr ⟨rfl, rfl, hm, ha⟩⟩
    · exact .inl (exec_status_of_no_fault h (by simp [hw, hk]))

/-! ## The order of the checks of a step (R174) -/

section Execute
variable {s : State} {i : Instr} (hr : Runnable s) (hi : s.frontEnd = .run i)
include hr hi

/-- A step whose instruction raises no data fault continues (R96, R103). -/
theorem step_continues (hf : ∀ w, accessWidth i = some w → accessFault s.config (accessAddr i s) w = none) :
    ∃ t, step s = .next t ∧ t.outcome = .continue := by
  obtain ⟨t, he⟩ := exec_next i s.start
  have hstatus : t.status = s.status := exec_status_of_no_fault (s := s.start) he hf
  exact ⟨t, (step_of_run hr hi).trans he, outcome_continue.2 (hstatus.trans hr.2)⟩

/-- A step whose instruction raises a data fault halts with the fault's kind, the pc and the fetched word: the word of
the record is the instruction's encoding, and decoding loses no bit (R89, R173). -/
theorem step_dataFault {w : Width} {k : FaultKind} (hw : accessWidth i = some w)
    (hk : accessFault s.config (accessAddr i s) w = some k) :
    ∃ t, step s = .next t ∧ t.outcome = .halt (.fault k s.pc (some (wordAt s s.pc.toNat))) := by
  obtain ⟨t, he⟩ := exec_next i s.start
  obtain ⟨hstatus, _⟩ := exec_haltsWith_of_fault (s := s.start) he hw hk
  obtain ⟨_, _, _, hd⟩ := frontEnd_run hi
  rw [(encodeOfDecodeIsTheWord _ i hd).2] at hstatus
  exact ⟨t, (step_of_run hr hi).trans he, outcome_halt.2 hstatus⟩

end Execute

/-- The outcome of a step that halts is its halt (R37). -/
theorem step_outcome_of_haltsWith {s : State} {r : HaltReason} (h : ∃ t, step s = .next t ∧ HaltsWith r s.start t) :
    ∃ t, step s = .next t ∧ t.outcome = .halt r := by
  obtain ⟨t, hstep, hstatus, _⟩ := h
  exact ⟨t, hstep, outcome_halt.2 hstatus⟩

/-- Settles O12: one case per check, in the order of the checks, each by the lemma of that check. -/
theorem stepOutcomeFollowsThePriorityOrder : Obligations.StepOutcomeFollowsThePriorityOrder := by
  intro s hr
  obtain ⟨hout, hmis⟩ := badPc_faultsAtFetch s hr
  by_cases hm : Mapped s s.pc 4
  case neg =>
    rw [if_pos hm]
    exact step_outcome_of_haltsWith (hout hm)
  rw [if_neg (not_not.2 hm)]
  by_cases ha : WordAligned s.pc
  case neg =>
    rw [if_pos ha]
    exact step_outcome_of_haltsWith (hmis hm ha)
  rw [if_neg (not_not.2 ha)]
  by_cases hn : wordAt s s.pc.toNat = s.config.sentinel
  case pos =>
    rw [if_pos hn]
    exact step_outcome_of_haltsWith (sentinelHaltsWithoutAnyWrite s hr hm ha hn)
  rw [if_neg hn]
  cases hd : decode (wordAt s s.pc.toNat) with
  | error k => exact step_outcome_of_haltsWith (decodeFaultHaltsAndMutatesNothing s k hr hm ha hn hd)
  | ok i =>
    have hi : s.frontEnd = .run i := frontEnd_of_decode hm ha hn hd
    cases hw : accessWidth i with
    | none =>
      simp only [hw]
      exact step_continues hr hi (by simp [hw])
    | some w =>
      simp only [hw]
      rcases accessFault_cases s (accessAddr i s) w with ⟨hm', hk⟩ | ⟨hword, hm', ha', hk⟩ | ⟨hm', ha', hk⟩
      · rw [if_pos hm']
        exact step_dataFault hr hi hw hk
      · rw [if_neg (not_not.2 hm'), if_pos ⟨hword, ha'⟩]
        exact step_dataFault hr hi hw hk
      · rw [if_neg (not_not.2 hm'), if_neg fun ⟨hword, hna⟩ => hna (ha' hword)]
        exact step_continues hr hi (by simp [hw, hk])

end Sys2Proof.Machine

/-! SUPPORT. Reset and hazards (70_reset_and_hazards.md): creation, reset and loading (R190 to R193), a halt that lasts until
a reset (R194), and runs (R195, R197, R198). -/

namespace Sys2Proof.Machine

/-! ## Reset (R190) -/

/-- After a reset the core is never in the stage before the first reset (R195). -/
theorem Lifecycle.afterReset_ne_created (l : Lifecycle) : l.afterReset ≠ .created := by
  cases l <;> decide

theorem resetTo_runnable (entry : Word) (draw : Vector Word 32) (s : State) : Runnable (resetTo entry draw s) :=
  ⟨s.lifecycle.afterReset_ne_created, rfl⟩

/-- A register other than x0 takes its value of the draw (R190). -/
theorem resetTo_reg {r : RegIdx} (hr : r ≠ 0#5) (entry : Word) (draw : Vector Word 32) (s : State) :
    (resetTo entry draw s).reg r = draw[r.toNat]'r.isLt := by
  have hne : 0 ≠ r.toNat := fun h => hr (BitVec.eq_of_toNat_eq h.symm)
  rw [State.reg, if_neg hr]
  exact Vector.getElem_set_ne (by decide) r.isLt hne

/-- Settles O1: the fields are those `resetTo` sets, and a bad entry is a bad pc of the core after the reset. -/
theorem resetSetsPcAndStatusAndKeepsMemory : Obligations.ResetSetsPcAndStatusAndKeepsMemory := by
  intro entry draw s
  obtain ⟨hout, hmis⟩ := badPc_faultsAtFetch _ (resetTo_runnable entry draw s)
  exact ⟨rfl, rfl, reg_zero _, fun _ hr => resetTo_reg hr entry draw s, fun _ => rfl, resetTo_config entry draw s,
    fun hm => step_outcome_of_haltsWith (hout hm), fun hm ha => step_outcome_of_haltsWith (hmis hm ha)⟩

/-! ## Creation and loading (R191 to R193) -/

/-- Creation with any other configuration is refused (R7, D9). -/
theorem create_of_not_wf {c : Config} (h : ¬ c.wf) (regs : Vector Word 32) (pc : Word) :
    create c regs pc = .refused .badConfig :=
  if_neg h

/-- Settles O3: the created core has empty memory, which reads 0, and it has not been reset. -/
theorem createZeroFillsMemoryOrRefuses : Obligations.CreateZeroFillsMemoryOrRefuses := fun _ regs pc =>
  ⟨fun h => ⟨_, create_of_wf h regs pc, rfl, fun _ => rfl, step_created rfl⟩, fun h => create_of_not_wf h regs pc⟩

theorem loadSegment_of_started {s : State} (h : s.lifecycle = .started) (data : List Byte) (address : Nat) :
    loadSegment data address s = .refused .hostWriteAfterStep := by
  simp only [loadSegment, h]

/-- A reset does not open the loading window again (R193). -/
theorem resetTo_started {s : State} (h : s.lifecycle = .started) (entry : Word) (draw : Vector Word 32) :
    (resetTo entry draw s).lifecycle = .started :=
  congrArg Lifecycle.afterReset h

/-- Any step of a legal state leaves a core that has stepped: a halted one had stepped already (R37, R193). -/
theorem step_started_of_legal {s t : State} (hs : Legal s) (h : step s = .next t) : t.lifecycle = .started := by
  rcases step_cases h with ⟨_, ⟨_, hh⟩, rfl⟩ | ⟨hr, _⟩ | ⟨hr, _⟩
  · exact hs.halted_started (by rw [hh]; nofun)
  · exact step_started hr h
  · exact step_started hr h

/-- Settles O6: the step has closed the loading window, and a reset leaves it closed. -/
theorem hostWriteRefusedAfterAStep : Obligations.HostWriteRefusedAfterAStep := by
  intro s t hs h data address entry draw
  have ht : t.lifecycle = .started := step_started_of_legal hs h
  exact ⟨loadSegment_of_started ht data address,
    loadSegment_of_started (resetTo_started ht entry draw) data address⟩

/-! ## The invariant of legal states -/

/-- The invariant of a running core: the two clauses about a halt say nothing of it. -/
theorem legal_of_running {s : State} (hc : s.config.wf) (hw : s.mem.wf)
    (hm : ∀ c ∈ s.mem, s.config.base ≤ c.1 ∧ c.1 < s.config.base + s.config.size) (h0 : s.regs[0] = 0#32)
    (hr : s.status = .running) : Legal s where
  config_wf := hc
  mem_wf := hw
  mem_mapped := hm
  x0_zero := h0
  halted_started := absurd hr
  halt_recurs := absurd hr

theorem create_legal {c : Config} {regs : Vector Word 32} {pc : Word} {s : State} (h : create c regs pc = .next s) :
    Legal s := by
  by_cases hc : c.wf
  · rw [create_of_wf hc] at h
    cases h
    exact legal_of_running hc ⟨.nil, nofun⟩ nofun (Vector.getElem_set_self _) rfl
  · rw [create_of_not_wf hc] at h
    cases h

/-- A load comes before the first step, so the core it loads is not halted, and it lists only addresses that the bounds
test let through (R37, R49). -/
theorem loadSegment_legal {data : List Byte} {address : Nat} {s t : State} (hs : Legal s)
    (h : loadSegment data address s = .next t) : Legal t := by
  obtain ⟨hl, hlo, hhi, rfl⟩ := loadSegment_inv h
  have hrun : s.status = .running := not_not.1 (mt hs.halted_started hl)
  refine legal_of_running hs.config_wf (Memory.writeBytes_wf hs.mem_wf address data) (fun c hc => ?_) hs.x0_zero hrun
  rcases Memory.mem_writeBytes hc with hold | ⟨hge, hlt⟩
  · exact hs.mem_mapped c hold
  · exact ⟨hlo.trans hge, hlt.trans_le hhi⟩

theorem resetTo_legal {s : State} (hs : Legal s) (entry : Word) (draw : Vector Word 32) :
    Legal (resetTo entry draw s) :=
  legal_of_running hs.config_wf hs.mem_wf hs.mem_mapped (Vector.getElem_set_self _) rfl

/-- Settles O57, one lemma per operation: each answers a running core. -/
theorem hostInterfaceKeepsTheInvariant : Obligations.HostInterfaceKeepsTheInvariant :=
  ⟨fun _ _ _ _ => create_legal, fun _ _ _ _ => loadSegment_legal,
    fun entry draw _ hs => resetTo_legal hs entry draw⟩

/-! ## A halt lasts until a reset (R194) -/

/-- Settles O7: a step of a halted core is the identity, a load changes memory only, and a reset sets the status. -/
theorem haltedCoreStaysHaltedUntilReset : Obligations.HaltedCoreStaysHaltedUntilReset := by
  intro s r hl hs
  refine ⟨step_halted hl hs, outcome_halt.2 hs, fun data address t h => ?_, fun _ _ => rfl⟩
  obtain ⟨_, _, _, rfl⟩ := loadSegment_inv h
  exact hs

/-- Any number of steps of a halted core changes nothing (R194). -/
theorem core_run_halted {s : State} {r : HaltReason} (hl : s.lifecycle ≠ .created) (h : s.status = .halted r) (n : Nat) :
    core.run n s = .next s := by
  induction n with
  | zero => rfl
  | succ n ih => rw [core_run_succ (step_halted hl h), ih]

/-! ## Runs (R195, R197, R198) -/

theorem run_created {s : State} (h : s.lifecycle = .created) (n : Nat) : run n s = .refused .notReset := by
  simp only [run, h]

theorem run_of_ne_created {s : State} (h : s.lifecycle ≠ .created) (n : Nat) : run n s = runLoop n s := by
  unfold run
  split
  case h_1 hc => exact absurd hc h
  case h_2 => rfl

/-- Settles O4: both refusals come before anything else. -/
theorem stepAndRunRefusedBeforeFirstReset : Obligations.StepAndRunRefusedBeforeFirstReset := fun _ h =>
  ⟨step_created h, run_created h⟩

/-- Only a core that has been reset steps, and it stays one (R195). -/
theorem step_ne_created {s t : State} (h : step s = .next t) : s.lifecycle ≠ .created ∧ t.lifecycle ≠ .created := by
  rcases step_cases h with ⟨hl, _, rfl⟩ | ⟨hr, _⟩ | ⟨hr, _⟩
  · exact ⟨hl, hl⟩
  · exact ⟨hr.1, by rw [step_started hr h]; nofun⟩
  · exact ⟨hr.1, by rw [step_started hr h]; nofun⟩

theorem run_zero {s : State} (h : s.lifecycle ≠ .created) : run 0 s = .next (s, .budgetExceeded) :=
  run_of_ne_created h 0

/-- A step halts or continues (R37). -/
theorem outcome_cases (t : State) : (∃ r, t.outcome = .halt r) ∨ t.outcome = .continue := by
  cases hs : t.status with
  | halted r => exact .inl ⟨r, outcome_halt.2 hs⟩
  | running => exact .inr (outcome_continue.2 hs)

section RunStep
variable {s t : State} (h : step s = .next t)
include h

/-- A run ends at the step that halts (R197). -/
theorem run_succ_of_halt {r : HaltReason} (ho : t.outcome = .halt r) (n : Nat) :
    run (n + 1) s = .next (t, r.runResult) := by
  rw [run_of_ne_created (step_ne_created h).1]
  simp only [runLoop, h, ho]

/-- A run goes on after a step that continues, with one step less of its budget (R197). -/
theorem run_succ_of_continue (ho : t.outcome = .continue) (n : Nat) : run (n + 1) s = run n t := by
  rw [run_of_ne_created (step_ne_created h).1, run_of_ne_created (step_ne_created h).2]
  simp only [runLoop, h, ho]

end RunStep

/-- The result of a run whose last step had this outcome (R197). -/
def StepOutcome.runResult : StepOutcome → RunResult
  | .continue => .budgetExceeded
  | .halt r => r.runResult

/-- A run with a budget of at least one step leaves the state of that many steps, and its result is that of the last
step's outcome: a step that halts ends the run, and the steps left over would change nothing (R194, R197, R198). -/
theorem run_succ_eq_steps (n : Nat) {s : State} (hl : s.lifecycle ≠ .created) :
    ∃ t, run (n + 1) s = .next (t, t.outcome.runResult) ∧ core.run (n + 1) s = .next t := by
  induction n generalizing s with
  | zero =>
    obtain ⟨t, h⟩ := step_next hl
    refine ⟨t, ?_, core_run_succ h⟩
    rcases outcome_cases t with ⟨r, ho⟩ | ho
    · rw [ho]
      exact run_succ_of_halt h ho 0
    · rw [ho]
      exact (run_succ_of_continue h ho 0).trans (run_zero (step_ne_created h).2)
  | succ n ih =>
    obtain ⟨u, h⟩ := step_next hl
    have hu : u.lifecycle ≠ .created := (step_ne_created h).2
    rcases outcome_cases u with ⟨r, ho⟩ | ho
    · refine ⟨u, ?_, (core_run_succ h).trans (core_run_halted hu (outcome_halt.1 ho) _)⟩
      rw [ho]
      exact run_succ_of_halt h ho _
    · rw [run_succ_of_continue h ho, core_run_succ h]
      exact ih hu

/-- Settles O59: a run of no steps, and a run of some. -/
theorem runIsIteratedStep : Obligations.RunIsIteratedStep := by
  intro n s hl
  cases n with
  | zero => exact ⟨s, _, run_zero hl, rfl, rfl⟩
  | succ n =>
    obtain ⟨t, hrun, hsteps⟩ := run_succ_eq_steps n hl
    exact ⟨t, _, hrun, hsteps, rfl⟩

/-- A halt is never reported as an exceeded budget (R197). -/
theorem HaltReason.runResult_ne_budgetExceeded (r : HaltReason) : r.runResult ≠ .budgetExceeded := by
  cases r <;> nofun

/-- Settles O60, by induction on the budget of the first run: each of its steps continued. -/
theorem runContinuesAfterBudgetExceeded : Obligations.RunContinuesAfterBudgetExceeded := by
  intro m n s t h
  have hl : s.lifecycle ≠ .created := fun hc => by rw [run_created hc] at h; cases h
  induction m generalizing s with
  | zero =>
    rw [run_zero hl] at h
    cases h
    rw [Nat.zero_add]
  | succ m ih =>
    obtain ⟨u, hstep⟩ := step_next hl
    rcases outcome_cases u with ⟨r, ho⟩ | ho
    · rw [run_succ_of_halt hstep ho] at h
      injection h with h
      exact absurd (congrArg Prod.snd h) r.runResult_ne_budgetExceeded
    · rw [run_succ_of_continue hstep ho] at h
      rw [Nat.succ_add, run_succ_of_continue hstep ho]
      exact ih u h (step_ne_created hstep).2

end Sys2Proof.Machine
